-- ==== Sys2Proof/Word.lean ====
section
/-! DEFINITION. The data words of the FEC transmission core: 32-bit register values, bytes of the host window, bits and
bit sequences (spec 00_scope.md R8, R9). -/

namespace Sys2Proof

/-- A host-visible register or bus word: 32 bits, unsigned (10_state.md R23, 00_scope.md R9). -/
abbrev Word := BitVec 32

/-- One byte of the host window (20_memory.md R60). -/
abbrev Byte := BitVec 8

/-- A bit, a value in {0, 1} (00_scope.md R8): `true` is 1. -/
abbrev Bit := Bool

/-- A bit sequence, index 0 first (00_scope.md R8). -/
abbrev Bits := List Bit

end Sys2Proof
end

