-- ==== Sys2Proof/Config.lean ====
section
/-! DEFINITION. What an implementation fixes (spec 00_scope.md R6) and the values the spec leaves free
(60_exceptions.md R245, 20_memory.md R69, 70_reset_and_hazards.md R270). -/

namespace Sys2Proof

/-- The two open parameters of 00_scope.md R6; every other row of its table is fixed or derived from these
(Machine/Operands.lean). They are chosen when the core is built and no step changes them. -/
structure Params where
  /-- IBUF_BITS, the capacity of the input bit buffer in bits. -/
  ibufBits : Nat
  /-- PROB_W, the fraction width of a probability and the width of a random draw. -/
  probW : Nat
deriving DecidableEq, Repr

/-- The defaults of 00_scope.md R6. -/
def Params.default : Params := { ibufBits := 4096, probW := 31 }

/-- FREE VALUE. The `n`-th value the entropy port supplies when no input is queued for it: a free input "under no law"
(60_exceptions.md R245). It has no body, so nothing can be proved about a value of it. Log entry 3. -/
opaque Config.freeDraw : Nat → Word

/-- FREE VALUE. The any-value bits of the `n`-th host read of OBUF or FBUF when no input is queued for them
(20_memory.md R69). It has no body, so nothing can be proved about a value of it. Log entry 4. -/
opaque Config.freeTail : Nat → Word

/-- Who moves next (20_memory.md R73, 70_reset_and_hazards.md R260, R270): the core's completion step, the host's next
operation, or the hardware reset input. -/
inductive Turn where
  | core
  | host
  | reset
deriving DecidableEq, Repr

/-- FREE VALUE. The turns that come between two default turns of the machine, for the `n`-th time the list of turns has run
out: any finite list, so any finite latency of a completion and any resets (70_reset_and_hazards.md R260, R270). It has no
body, so nothing can be proved about a value of it. Log entry 2. -/
opaque Config.freeTurns : Nat → List Turn

end Sys2Proof
end

