-- ==== Sys2Proof/Syntax.lean ====
section
/-! DEFINITION. The commands of the core: one constructor per row of opcode_table.json (spec 30_encoding.md R91). -/

namespace Sys2Proof

/-- A command of the core (30_encoding.md R91). No command has an immediate, register or mode field (R90), so no
constructor has an argument: operands come from IN_LEN, IBUF, TB_DEPTH and PARAM0..3. -/
inductive Instr where
  /-- HAM_ENC_BLK: encode one 4-bit block (41_hamming.md R120). -/
  | hamEncBlk
  /-- HAM_DEC_BLK: decode one 7-bit codeword (41_hamming.md R124). -/
  | hamDecBlk
  /-- HAM_ENC_SEQ: encode a sequence of 4-bit groups (41_hamming.md R126). -/
  | hamEncSeq
  /-- HAM_DEC_SEQ: decode a sequence of 7-bit blocks (41_hamming.md R127). -/
  | hamDecSeq
  /-- HAM_CNT_CLR: clear the corrected-block counter (41_hamming.md R128). -/
  | hamCntClr
  /-- CONV_ENC: convolutional encode (42_convolutional.md R150). -/
  | convEnc
  /-- VIT_DEC: Viterbi decode (42_convolutional.md R160). -/
  | vitDec
  /-- BSC_CFG: construct the binary symmetric channel (43_bsc.md R190). -/
  | bscCfg
  /-- BSC_TX: transmit through the binary symmetric channel (43_bsc.md R192). -/
  | bscTx
  /-- GE_CFG: construct the Gilbert-Elliott channel (44_gilbert_elliott.md R210). -/
  | geCfg
  /-- GE_TX: transmit through the Gilbert-Elliott channel (44_gilbert_elliott.md R212). -/
  | geTx
deriving DecidableEq, Repr

end Sys2Proof
end

