-- ==== Sys2Proof/WellFormed.lean ====
section
/-! DEFINITION. The checks on raw data: legal parameters (spec 00_scope.md R6), legal command words (30_encoding.md R91,
R94), legal probabilities (R92) and well-formed commands. -/

namespace Sys2Proof

/-- The legal values of 00_scope.md R6: IBUF_BITS a multiple of 32 with 32 ≤ IBUF_BITS ≤ 2^22, and 1 ≤ PROB_W ≤ 31. -/
def Params.wf (p : Params) : Bool :=
  p.ibufBits % 32 == 0 && decide (32 ≤ p.ibufBits) && decide (p.ibufBits ≤ 2 ^ 22) &&
    decide (1 ≤ p.probW) && decide (p.probW ≤ 31)

/-- A command word is legal exactly when its reserved bits 31..4 are zero and its opcode is one of 1 to 11
(30_encoding.md R91, R94). -/
def commandWordWf (w : Word) : Bool :=
  w.toNat / 16 == 0 && decide (1 ≤ w.toNat % 16) && decide (w.toNat % 16 ≤ 11)

/-- A register value is a legal probability exactly when it is at most 2^PROB_W (30_encoding.md R92). -/
def probabilityWf (p : Params) (v : Word) : Bool := decide (v.toNat ≤ 2 ^ p.probW)

/-- Every command is well formed: no constructor has a field that could be out of range (30_encoding.md R90). -/
def Instr.wf (_ : Instr) : Bool := true

end Sys2Proof
end

