-- ==== Sys2Proof/Decode.lean ====
section
/-! DEFINITION. The command decoder and encoder (spec 30_encoding.md R90, R91, R94). -/

namespace Sys2Proof

/-- Why a word is no command (30_encoding.md R94). Two names for one error: DESIGN CHOICE, safe, log entry 19. -/
inductive DecodeError where
  /-- CMD[31:4] is not zero. -/
  | reservedBits
  /-- OPCODE is 0x0, 0xC, 0xD, 0xE or 0xF. -/
  | reservedOpcode
deriving DecidableEq, Repr

/-- The field CMD[3:0] (30_encoding.md R90). -/
def opcodeField (w : Word) : BitVec 4 := w.extractLsb' 0 4

/-- The field CMD[31:4] (30_encoding.md R90). -/
def reservedField (w : Word) : BitVec 28 := w.extractLsb' 4 28

/-- The command an opcode selects (30_encoding.md R91); the five reserved opcodes select none (R94). -/
def instrOfOpcode (op : BitVec 4) : Option Instr :=
  match op.toNat with
  | 1 => some .hamEncBlk
  | 2 => some .hamDecBlk
  | 3 => some .hamEncSeq
  | 4 => some .hamDecSeq
  | 5 => some .hamCntClr
  | 6 => some .convEnc
  | 7 => some .vitDec
  | 8 => some .bscCfg
  | 9 => some .bscTx
  | 10 => some .geCfg
  | 11 => some .geTx
  | _ => none

/-- Decoding a command word: total, each rejection by name (30_encoding.md R91, R94). -/
def decode (w : Word) : Except DecodeError Instr :=
  if reservedField w = 0#28 then
    match instrOfOpcode (opcodeField w) with
    | some i => .ok i
    | none => .error .reservedOpcode
  else .error .reservedBits

/-- The opcode column of 30_encoding.md R91. -/
def opcodeOf : Instr → BitVec 4
  | .hamEncBlk => 0x1#4
  | .hamDecBlk => 0x2#4
  | .hamEncSeq => 0x3#4
  | .hamDecSeq => 0x4#4
  | .hamCntClr => 0x5#4
  | .convEnc => 0x6#4
  | .vitDec => 0x7#4
  | .bscCfg => 0x8#4
  | .bscTx => 0x9#4
  | .geCfg => 0xA#4
  | .geTx => 0xB#4

/-- The command word of a command: reserved bits zero, then the opcode (30_encoding.md R90, R91). -/
def encode (i : Instr) : Word := 0#28 ++ opcodeOf i

/-- The word whose bits are the low `nbits` bits of `w`, every bit above them zero: a command is one 32-bit word and
bit 0 of the table is its least significant bit (30_encoding.md R90). -/
def tableWord (nbits w : Nat) : Word := BitVec.ofNat 32 (w % 2 ^ nbits)

/-- The command the decoder reads from a row of opcode_table.json. -/
def decodeTableWord (nbits w : Nat) : Option Instr :=
  match decode (tableWord nbits w) with
  | .ok i => some i
  | .error _ => none

end Sys2Proof
end

