-- ==== Sys2Proof/Machine/HostSyntax.lean ====
section
/-! DEFINITION. The names of the host interface (registers, buffer words) and the operations of a host bus program
(spec 10_state.md R23, 20_memory.md R65, 30_encoding.md R102). -/

namespace Sys2Proof.Machine

/-- The host-visible registers: the complete map of 10_state.md R23. -/
inductive RegName where
  | cmd | status | inLen | outLen | flagLen | tbDepth | hamCnt | geState
  | param0 | param1 | param2 | param3
  | bscBer | gePgb | gePbg | geEg | geEb
  | id | capIbuf | capProbw
deriving DecidableEq, Repr

/-- What a host program may name (30_encoding.md R102): a register, or word `k` of a buffer (20_memory.md R65). `k` may be any
number, also one past the buffer (DESIGN CHOICE, safe: log entry 22). -/
inductive Target where
  | reg (r : RegName)
  | ibuf (k : Nat)
  | obuf (k : Nat)
  | fbuf (k : Nat)
deriving DecidableEq, Repr

/-- A host variable: one a program names, or the `t` that the expansions of POLL and COPY use (30_encoding.md R102). R102 does
not say whether a program's own lines share that `t`: here a line that names `scratch` reads what the last POLL or COPY left
there, or overwrites it, and one that names any other variable does not (DESIGN CHOICE, safe: log entry 17). -/
inductive Var where
  | named (n : Nat)
  | scratch
deriving DecidableEq, Repr

/-- The data of a bus write: a literal, or a value read earlier (the `t` of COPY, 30_encoding.md R102). -/
inductive Operand where
  | imm (v : Word)
  | var (x : Var)
deriving DecidableEq, Repr

/-- One operation of the host agent after the pseudo-instructions of 30_encoding.md R102 are expanded and its labels
resolved to positions. The width of an access is in bytes, so that an access of a width the core does not have can
be issued (20_memory.md R66). -/
inductive HostOp where
  /-- MemWrite(addr, width, data). -/
  | write (addr width : Nat) (data : Operand)
  /-- x <- MemRead(addr, width). -/
  | read (addr width : Nat) (x : Var)
  /-- CHECK x = value mask m. -/
  | check (x : Var) (value mask : Word)
  /-- IF (x & m) ≠ 0 GOTO the operation at `target`. -/
  | branchIf (x : Var) (mask : Word) (target : Nat)
  /-- HALT: the host program ends. -/
  | halt
deriving DecidableEq, Repr

/-- One line of a host program as 30_encoding.md R102 writes it. A label is a number, and a variable is any `Var`, the `t` of
POLL and COPY among them (DESIGN CHOICE, safe: log entries 17 and 21). -/
inductive Line where
  | wr (name : Target) (imm : Word)
  | rd (name : Target) (x : Var)
  | run (i : Instr)
  | poll
  | copy (n : Nat)
  /-- CHECK x = value [mask m]; `none` where the line gives no mask. -/
  | check (x : Var) (value : Word) (mask : Option Word)
  | label (l : Nat)
  | ifGoto (x : Var) (mask : Word) (l : Nat)
  | halt
deriving DecidableEq, Repr

/-- The host agent: the operations it performs, one at a time and in order (20_memory.md R73), and where it stands. -/
structure HostAgent where
  /-- The operations of the host program. -/
  program : List HostOp
  /-- The position of the next operation; at or past the end the host is idle. -/
  pc : Nat
  /-- The host variables that have a value. -/
  vars : List (Var × Word)
  /-- Some CHECK of the program has not held (DESIGN CHOICE, safe: log entry 12). -/
  checkFailed : Bool
deriving DecidableEq, Repr

end Sys2Proof.Machine
end

