-- ==== Sys2Proof/Machine/State.lean ====
section
/-! DEFINITION. The state of the core (spec 10_state.md R49), the inputs of its environment, its faults and refusals, and
the state after reset (R50). -/

namespace Sys2Proof.Machine

/-- The values of STATUS.ERR the core produces (60_exceptions.md R230; codes 8 to 15 are never produced: DEDUCED, safe, log
entry 7). -/
inductive ErrCode where
  /-- 0: success. -/
  | none
  | invalidBlockSize
  | lengthError
  | invalidLength
  | invalidChannelParams
  | illegalCommand
  | capacityExceeded
  | notConfigured
deriving DecidableEq, Repr

/-- The Gilbert-Elliott channel state (10_state.md R34, R44). -/
inductive Channel where
  | good
  | bad
deriving DecidableEq, Repr

/-- A source of free input words: the words the environment has queued, oldest first, and how many words have been taken
so far. When the queue is empty the word is a free value of Config at that count. DESIGN CHOICE,
safe: log entries 3 and 4. -/
structure FreePort where
  queue : List Word
  taken : Nat
deriving DecidableEq, Repr

/-- Memory: the bytes of the window that hold a value, by rising address. Only IBUF is memory the host writes; a byte not
listed is unwritten and has no value (10_state.md R38). DEDUCED, safe: log entry 5. -/
abbrev Memory := List Host.Cell

/-- The whole machine: the record of 10_state.md R49, then the parameters of the core and the inputs of its environment
(DESIGN CHOICE, safe: log entries 1 to 4 and 10). What the spec keeps during one command only is no field (DEDUCED, safe:
log entry 9). -/
structure State where
  /-- STATUS.BUSY (10_state.md R25). -/
  busy : Bool
  /-- STATUS.DONE (R25). -/
  done : Bool
  /-- STATUS.BSC_VALID (R25). -/
  bscValid : Bool
  /-- STATUS.GE_VALID (R25). -/
  geValid : Bool
  /-- STATUS.ERR (R25). -/
  err : ErrCode
  /-- IN_LEN (R26). -/
  inLen : Word
  /-- TB_DEPTH (R29). -/
  tbDepth : Word
  /-- HAM_CNT (R30). -/
  hamCnt : Word
  /-- PARAM0 (R35). -/
  param0 : Word
  /-- PARAM1 (R35). -/
  param1 : Word
  /-- PARAM2 (R35). -/
  param2 : Word
  /-- PARAM3 (R35). -/
  param3 : Word
  /-- BSC_BER (R36). -/
  bscBer : Word
  /-- GE_PGB (R37). -/
  gePgb : Word
  /-- GE_PBG (R37). -/
  gePbg : Word
  /-- GE_EG (R37). -/
  geEg : Word
  /-- GE_EB (R37). -/
  geEb : Word
  /-- GE_STATE (R34). -/
  geState : Channel
  /-- IBUF, as the bytes of its window (R38, 20_memory.md R65). -/
  mem : Memory
  /-- The valid bits of OBUF; OUT_LEN is its length (R39, R27). -/
  out : Bits
  /-- The valid bits of FBUF; FLAG_LEN is its length (R40, R28). -/
  flags : Bits
  /-- PENDING (R46). -/
  pending : Option Word
  /-- The parameters the core was built with (00_scope.md R6); no step changes them. -/
  cfg : Params
  /-- MODEL'S OWN. The entropy port's input (60_exceptions.md R245) and the position of its stream (10_state.md R48). -/
  entropy : FreePort
  /-- MODEL'S OWN. The any-value bits of OBUF and FBUF reads (20_memory.md R69). -/
  anyBits : FreePort
  /-- MODEL'S OWN. The host agent and its program (20_memory.md R73, 30_encoding.md R102). -/
  host : HostAgent
  /-- MODEL'S OWN. Who moves in the next steps; when the list has run out, one default turn follows and the list is filled
  again with free turns (DESIGN CHOICE, safe: log entry 2). -/
  schedule : List Turn
  /-- MODEL'S OWN. How often `schedule` has been filled again: the position in Config.freeTurns (DESIGN CHOICE, safe: log entry
  2). -/
  refills : Nat
deriving DecidableEq, Repr

/-- The model faults: the closed list of 60_exceptions.md R240. Each is safe: the model stops where the spec defines no
behaviour. -/
inductive Fault where
  /-- A command or a host read reads an IBUF word that was never written (R241). Raised by the commands that read
  input and by a host read of IBUF. Safe. -/
  | uninitializedInput
  /-- A host access of a wrong width, misaligned, to a reserved address, a write to a read-only location, or a read of
  CMD (R242). Safe. -/
  | busError
  /-- A host access other than a STATUS read while STATUS.BUSY = 1 (R243). Safe. -/
  | hostAccessWhileBusy
deriving DecidableEq, Repr

/-- The refusals of the model. -/
inductive Refusal where
  /-- The command has no meaning in the model. No arm of exec raises it. Safe. -/
  | notModelled (mnemonic : String)
  /-- A host program uses a variable it has given no value: no rule of the core covers it (DESIGN CHOICE, log entry 11). Raised by the
  host agent only, never by a command. Safe. -/
  | hostVariableUnset
deriving DecidableEq, Repr

/-- The state after reset of a core built with parameters `p` (10_state.md R50, R23), in an environment that has queued
nothing: no host program, no forced turn, no entropy word. -/
def State.resetWith (p : Params) : State :=
  { busy := false, done := false, bscValid := false, geValid := false, err := .none
    inLen := 0#32, tbDepth := 0#32, hamCnt := 0#32
    param0 := 0#32, param1 := 0#32, param2 := 0#32, param3 := 0#32
    bscBer := 0#32, gePgb := 0#32, gePbg := 0#32, geEg := 0#32, geEb := 0#32
    geState := .good
    mem := [], out := [], flags := [], pending := none
    cfg := p
    entropy := { queue := [], taken := 0 }
    anyBits := { queue := [], taken := 0 }
    host := { program := [], pc := 0, vars := [], checkFailed := false }
    schedule := []
    refills := 0 }

/-- The state after reset of a core built with the default parameters of 00_scope.md R6. -/
def State.reset : State := State.resetWith Params.default

end Sys2Proof.Machine
end

