-- ==== Sys2Proof/Machine/Ops.lean ====
section
/-! DEFINITION. The shared operations over memory, STATUS, results and inputs: byte and word access, issue, completion,
taking an error, hardware reset (spec 10_state.md, 20_memory.md, 30_encoding.md, 60_exceptions.md,
70_reset_and_hazards.md). -/

namespace Sys2Proof.Machine

/-- What a command or an agent's step answers. -/
abbrev Result := Host.Outcome State Fault Refusal

/-! ### Memory -/

/-- The byte at an address, or nothing where none was written (10_state.md R38). -/
def Memory.read : Memory → Nat → Option Byte
  | [], _ => none
  | (a, b) :: rest, x => if x = a then some b else Memory.read rest x

/-- Write one byte, keeping the addresses rising. -/
def Memory.write : Memory → Nat → Byte → Memory
  | [], x, v => [(x, v)]
  | (a, b) :: rest, x, v =>
    if x < a then (x, v) :: (a, b) :: rest
    else if x = a then (x, v) :: rest
    else (a, b) :: Memory.write rest x v

/-- The canonical form: addresses strictly rising, so no address is listed twice. An unlisted byte has no value, so no
entry can equal what an unlisted address reads as. -/
def Memory.wf : Memory → Bool
  | [] => true
  | [_] => true
  | (a, _) :: (b, y) :: rest => decide (a < b) && Memory.wf ((b, y) :: rest)

/-- The word whose first byte is at `a`; the byte at the lowest address is the most significant, as bytes are packed in
20_memory.md R63 (no access observes byte lanes, R61). DESIGN CHOICE, safe: log entry 6. -/
def Memory.readWord (m : Memory) (a : Nat) : Option Word :=
  match m.read a, m.read (a + 1), m.read (a + 2), m.read (a + 3) with
  | some b0, some b1, some b2, some b3 => some (b0 ++ b1 ++ b2 ++ b3)
  | _, _, _, _ => none

/-- Write a whole word, its most significant byte at `a`. -/
def Memory.writeWord (m : Memory) (a : Nat) (v : Word) : Memory :=
  (((m.write a (v.extractLsb' 24 8)).write (a + 1) (v.extractLsb' 16 8)).write (a + 2) (v.extractLsb' 8 8)).write
    (a + 3) (v.extractLsb' 0 8)

/-! ### Free inputs -/

/-- Take one word from a port: the oldest queued word, or the free value at this position. -/
def FreePort.next (free : Nat → Word) (p : FreePort) : Word × FreePort :=
  match p.queue with
  | [] => (free p.taken, { queue := [], taken := p.taken + 1 })
  | w :: rest => (w, { queue := rest, taken := p.taken + 1 })

/-- Take `n` words, in order. -/
def FreePort.nextMany (free : Nat → Word) : Nat → FreePort → List Word × FreePort
  | 0, p => ([], p)
  | n + 1, p =>
    let (w, p') := p.next free
    let (ws, p'') := FreePort.nextMany free n p'
    (w :: ws, p'')

/-! ### Issue, completion and errors -/

/-- Issue of a command word (30_encoding.md R95). -/
def State.issue (s : State) (v : Word) : State :=
  { s with pending := some v, busy := true, done := false, err := .none }

/-- The STATUS and PENDING writes of a completion (30_encoding.md R96). -/
def State.finish (s : State) (code : ErrCode) : State :=
  { s with err := code, busy := false, done := true, pending := none }

/-- TAKING AN ERROR: the command ends with its code and nothing else changes (60_exceptions.md R231, R234;
30_encoding.md R98). There is nothing to return from (R235). -/
def State.raise (s : State) (code : ErrCode) : Result := .next (s.finish code)

/-- Successful completion of a command that has made its updates (30_encoding.md R96). -/
def State.succeed (s : State) : Result := .next (s.finish .none)

/-! ### Updates of results and units -/

/-- Replace OBUF and FBUF as a whole (30_encoding.md R99). -/
def State.setOutput (s : State) (out flags : Bits) : State := { s with out := out, flags := flags }

/-- Write HAM_CNT (10_state.md R30). -/
def State.setHamCnt (s : State) (v : Word) : State := { s with hamCnt := v }

/-- Commit the binary symmetric channel (43_bsc.md R190). -/
def State.setBsc (s : State) (ber : Word) : State := { s with bscBer := ber, bscValid := true }

/-- Commit the Gilbert-Elliott channel, which starts in Good (44_gilbert_elliott.md R210). -/
def State.setGe (s : State) (pgb pbg eg eb : Word) : State :=
  { s with gePgb := pgb, gePbg := pbg, geEg := eg, geEb := eb, geState := .good, geValid := true }

/-- Write the channel state back (44_gilbert_elliott.md R213). -/
def State.setGeState (s : State) (g : Channel) : State := { s with geState := g }

/-- Move the entropy port on (60_exceptions.md R246). -/
def State.setEntropy (s : State) (p : FreePort) : State := { s with entropy := p }

/-- Move the source of the any-value bits on (20_memory.md R69). -/
def State.setAnyBits (s : State) (p : FreePort) : State := { s with anyBits := p }

/-- Replace IBUF's bytes. -/
def State.setMem (s : State) (m : Memory) : State := { s with mem := m }

/-- Replace the host agent. -/
def State.setHost (s : State) (h : HostAgent) : State := { s with host := h }

/-- Replace the turns still to come. -/
def State.setSchedule (s : State) (ts : List Turn) : State := { s with schedule := ts }

/-- The state in which the turn of a step is used up: the first of the turns still to come, or, where none is left, the default
turn, after which the environment supplies the next free turns (70_reset_and_hazards.md R270). DESIGN CHOICE, safe: log entry
2. -/
def State.afterTurn (s : State) : State :=
  { s with
    schedule := if s.schedule.isEmpty then Config.freeTurns s.refills else s.schedule.tail
    refills := if s.schedule.isEmpty then s.refills + 1 else s.refills }

/-! ### Reset -/

/-- Hardware reset, at any time: every piece of the core's state takes its reset value, a command in flight is
abandoned, and no draw is taken (70_reset_and_hazards.md R260, 10_state.md R50). The parameters, the host and the
queued inputs are not the core's state and stay: DESIGN CHOICE, safe, log entry 13. -/
def State.hardwareReset (s : State) : State :=
  { State.resetWith s.cfg with
    entropy := s.entropy, anyBits := s.anyBits, host := s.host, schedule := s.schedule,
    refills := s.refills }

end Sys2Proof.Machine
end

