-- ==== Sys2Proof/Machine/Operands.lean ====
section
/-! DEFINITION. Derived parameters (spec 00_scope.md R6), the operands of a command (30_encoding.md R92, R93), its
validation (R97) and its draws (60_exceptions.md R245). -/

namespace Sys2Proof

/-- OBUF_BITS = 2*IBUF_BITS (00_scope.md R6). -/
def Params.obufBits (p : Params) : Nat := 2 * p.ibufBits

/-- FBUF_BITS = IBUF_BITS (00_scope.md R6). -/
def Params.fbufBits (p : Params) : Nat := p.ibufBits

/-- T_MAX = IBUF_BITS/2, the greatest number of Viterbi symbol pairs (00_scope.md R6). -/
def Params.tMax (p : Params) : Nat := p.ibufBits / 2

/-- PM_W, the smallest w with 2^w - 1 > 2*T_MAX (00_scope.md R6; Laws/Operands.lean proves it is that). -/
def Params.pmW (p : Params) : Nat := Nat.log2 (2 * p.tMax + 1) + 1

/-- INF = 2^PM_W - 1, "unreachable" (10_state.md R43). -/
def Params.inf (p : Params) : Nat := 2 ^ p.pmW - 1

end Sys2Proof

namespace Sys2Proof.Machine

/-! ### The bit view of IBUF -/

/-- The byte address of word 0 of IBUF (20_memory.md R65). -/
def ibufBase : Nat := 0x100000

/-- IBUF word `k`, or nothing while it is unwritten (10_state.md R38). -/
def State.ibufWord (s : State) (k : Nat) : Option Word := s.mem.readWord (ibufBase + 4 * k)

/-- Bit `i` of a buffer lies in word `i div 32`, at bit `31 - (i mod 32)` (20_memory.md R62). -/
def bitOfWord (w : Word) (i : Nat) : Bit := w.getLsbD (31 - i % 32)

/-- IBUF[i] (10_state.md R38). -/
def State.ibufBit (s : State) (i : Nat) : Option Bit :=
  match s.ibufWord (i / 32) with
  | some w => some (bitOfWord w i)
  | none => none

/-- IBUF[i : i+n], or nothing where a word of it is unwritten. -/
def State.ibufBits (s : State) (i : Nat) : Nat → Option Bits
  | 0 => some []
  | n + 1 =>
    match s.ibufBit i, s.ibufBits (i + 1) n with
    | some b, some bs => some (b :: bs)
    | _, _ => none

/-- L = IN_LEN (30_encoding.md R93). -/
def State.len (s : State) : Nat := s.inLen.toNat

/-- A command's input sequence, `IBUF[0:L]` (30_encoding.md R93). -/
def State.input (s : State) : Option Bits := s.ibufBits 0 s.len

/-! ### Validation -/

/-- A check of 30_encoding.md R97: whether it fails, and the error it then raises. -/
abbrev Check := Bool × ErrCode

/-- The error of the first check that fails (30_encoding.md R97, 60_exceptions.md R233). -/
def firstError : List Check → Option ErrCode
  | [] => none
  | (fails, e) :: rest => if fails then some e else firstError rest

/-- Check 2 of 30_encoding.md R97. -/
def State.capacityCheck (s : State) : Check := (decide (s.cfg.ibufBits < s.len), .capacityExceeded)

/-- Check 3 of 30_encoding.md R97, for BSC_TX. -/
def State.bscConfigured (s : State) : Check := (!s.bscValid, .notConfigured)

/-- Check 3 of 30_encoding.md R97, for GE_TX. -/
def State.geConfigured (s : State) : Check := (!s.geValid, .notConfigured)

/-- Check 4 of 30_encoding.md R97, for the two block commands. -/
def State.blockCheck (s : State) (n : Nat) : Check := (s.len != n, .invalidBlockSize)

/-- Check 4 of 30_encoding.md R97, for the commands whose length is a multiple of `n`. -/
def State.multipleCheck (s : State) (n : Nat) (e : ErrCode) : Check := (s.len % n != 0, e)

/-- Check 5 of 30_encoding.md R97, for one parameter: it is no probability (R92). -/
def State.probabilityCheck (s : State) (v : Word) : Check := (!probabilityWf s.cfg v, .invalidChannelParams)

/-- A command: its checks in order, the first that fails ending it with its error, else its effect (30_encoding.md R97). -/
def State.command (s : State) (checks : List Check) (effect : State → Result) : Result :=
  match firstError checks with
  | some e => s.raise e
  | none => effect s

/-- The effect of a command that reads input: the read comes after every check, and an unwritten word is the model fault
UninitializedInput, which leaves no state (30_encoding.md R93; DEDUCED, safe: log entry 20). -/
def State.withInput (s : State) (effect : Bits → State) : Result :=
  match s.input with
  | some b => (effect b).succeed
  | none => .fault .uninitializedInput

/-! ### Draws -/

/-- The draw a port word gives: its low PROB_W bits, so 0 ≤ u < 2^PROB_W (60_exceptions.md R245). DESIGN CHOICE, safe:
log entry 3. -/
def drawOfWord (p : Params) (w : Word) : Nat := w.toNat % 2 ^ p.probW

/-- The next `n` draws, in order (60_exceptions.md R245). -/
def State.draws (s : State) (n : Nat) : List Nat :=
  (s.entropy.nextMany Config.freeDraw n).1.map (drawOfWord s.cfg)

/-- The state after `n` draws (60_exceptions.md R246). -/
def State.afterDraws (s : State) (n : Nat) : State :=
  s.setEntropy (s.entropy.nextMany Config.freeDraw n).2

end Sys2Proof.Machine
end

