-- ==== Sys2Proof/Machine/Bsc.lean ====
section
/-! DEFINITION. bsc_transmitter: BSC_CFG and BSC_TX (spec 43_bsc.md). -/

namespace Sys2Proof.Machine

/-- The Bernoulli decision Hit(u, v) = (u < v), unsigned (43_bsc.md R191). -/
def hit (u : Nat) (v : Word) : Bool := decide (u < v.toNat)

/-- The error flag of each bit, from one draw per bit (43_bsc.md R192). -/
def bscFlags (ber : Word) (draws : List Nat) : Bits := draws.map fun u => hit u ber

/-- The received bits: each bit inverted where its flag is set (43_bsc.md R192, 44_gilbert_elliott.md R212). -/
def flipFlagged (b flags : Bits) : Bits := List.zipWith (fun x f => x ^^ f) b flags

/-- BSC_CFG: no capacity check, no draw (43_bsc.md R190). -/
def execBscCfg (s : State) : Result :=
  s.command [s.probabilityCheck s.param0] fun s => (s.setBsc s.param0).succeed

/-- BSC_TX: exactly one draw per bit (43_bsc.md R192). -/
def execBscTx (s : State) : Result :=
  s.command [s.capacityCheck, s.bscConfigured] fun s =>
    s.withInput fun b =>
      let flags := bscFlags s.bscBer (s.draws s.len)
      (s.afterDraws s.len).setOutput (flipFlagged b flags) flags

end Sys2Proof.Machine
end

