-- ==== Sys2Proof/Machine/Convolutional.lean ====
section
/-! DEFINITION. conv_encoder_k3_r12 (CONV_ENC), and viterbi_decoder_k3 with path_metric_ram and traceback_engine (VIT_DEC)
(spec 42_convolutional.md). -/

namespace Sys2Proof.Machine

/-! ### Trellis -/

/-- A trellis state, the number 2*reg[0] + reg[1] (10_state.md R42). -/
abbrev TrellisState := BitVec 2

/-- reg[0], the most recent previous input bit (10_state.md R41). -/
def TrellisState.reg0 (p : TrellisState) : Bit := p.getLsbD 1

/-- reg[1], the input bit before it (10_state.md R41). -/
def TrellisState.reg1 (p : TrellisState) : Bit := p.getLsbD 0

/-- Next(p, b): the new bit enters at reg[0] and reg[0] moves to reg[1] (42_convolutional.md R151, R153). -/
def nextState (p : TrellisState) (b : Bit) : TrellisState := BitVec.ofBool b ++ BitVec.ofBool p.reg0

/-- out0 = b ⊕ reg[0] ⊕ reg[1] (42_convolutional.md R151, R153). -/
def out0 (p : TrellisState) (b : Bit) : Bit := (b ^^ p.reg0) ^^ p.reg1

/-- out1 = b ⊕ reg[1] (42_convolutional.md R151, R153). -/
def out1 (p : TrellisState) (b : Bit) : Bit := b ^^ p.reg1

/-- The encoder from state `p`: each input bit emits [out0, out1] and shifts into the register; no flush bits
(42_convolutional.md R150). -/
def convEncode (p : TrellisState) : Bits → Bits
  | [] => []
  | b :: rest => out0 p b :: out1 p b :: convEncode (nextState p b) rest

/-- The input bit of both transitions into `s`, `s div 2` (42_convolutional.md R154). -/
def inputBit (s : TrellisState) : Bit := s.getLsbD 1

/-- lo(s) = 2*(s mod 2) (42_convolutional.md R154). -/
def loPred (s : TrellisState) : TrellisState := BitVec.ofBool (s.getLsbD 0) ++ 0#1

/-- hi(s) = 2*(s mod 2) + 1 (42_convolutional.md R154). -/
def hiPred (s : TrellisState) : TrellisState := BitVec.ofBool (s.getLsbD 0) ++ 1#1

/-! ### path_metric_ram -/

/-- An entry of path_metric_ram (10_state.md R43): the metric, where INF means unreachable, and the predecessor. -/
structure PmEntry where
  metric : Nat
  pred : TrellisState
deriving DecidableEq, Repr

/-- Row t of path_metric_ram: the entries PM[t][0] to PM[t][3] (10_state.md R43). -/
structure PmRow where
  e0 : PmEntry
  e1 : PmEntry
  e2 : PmEntry
  e3 : PmEntry
deriving DecidableEq, Repr

/-- PM[t][s] of row t. -/
def PmRow.entry (r : PmRow) (s : TrellisState) : PmEntry :=
  match s.toNat with
  | 0 => r.e0
  | 1 => r.e1
  | 2 => r.e2
  | _ => r.e3

/-- The row that holds `f s` for each state s. -/
def PmRow.tabulate (f : TrellisState → PmEntry) : PmRow := ⟨f 0#2, f 1#2, f 2#2, f 3#2⟩

/-- Row 0: state 0 has metric 0 and every other state is unreachable; its preds are never read
(42_convolutional.md R152). -/
def initialRow (p : Params) : PmRow :=
  PmRow.tabulate fun s => { metric := if s = 0#2 then 0 else p.inf, pred := 0#2 }

/-- BM(r, o), the Hamming distance of a received and an expected pair (42_convolutional.md R156). -/
def branchMetric (r0 r1 o0 o1 : Bit) : Nat := (r0 ^^ o0).toNat + (r1 ^^ o1).toNat

/-- cand(p) for state s: INF stays INF, else the metric grows by the branch metric (42_convolutional.md R155). -/
def candidate (p : Params) (row : PmRow) (r0 r1 : Bit) (s q : TrellisState) : Nat :=
  if (row.entry q).metric = p.inf then p.inf
  else (row.entry q).metric + branchMetric r0 r1 (out0 q (inputBit s)) (out1 q (inputBit s))

/-- Add-compare-select for state s: the lower metric, and the lower-indexed predecessor on a tie
(42_convolutional.md R155). -/
def addCompareSelect (p : Params) (row : PmRow) (r0 r1 : Bit) (s : TrellisState) : PmEntry :=
  if candidate p row r0 r1 s (hiPred s) < candidate p row r0 r1 s (loPred s) then
    { metric := candidate p row r0 r1 s (hiPred s), pred := hiPred s }
  else { metric := candidate p row r0 r1 s (loPred s), pred := loPred s }

/-- Row t from row t-1 and the received pair r_t (42_convolutional.md R155). -/
def nextRow (p : Params) (row : PmRow) (r0 r1 : Bit) : PmRow :=
  PmRow.tabulate (addCompareSelect p row r0 r1)

/-- path_metric_ram after the whole received sequence: the given row, then one row for each received pair, oldest first
(42_convolutional.md R155). -/
def pathMetricRows (p : Params) (row : PmRow) : Bits → List PmRow
  | r0 :: r1 :: rest => row :: pathMetricRows p (nextRow p row r0 r1) rest
  | _ => [row]

/-- Final-state selection: the smallest state whose metric is the minimum (42_convolutional.md R158). -/
def bestState (row : PmRow) : TrellisState :=
  let m := min (min row.e0.metric row.e1.metric) (min row.e2.metric row.e3.metric)
  if row.e0.metric = m then 0#2
  else if row.e1.metric = m then 1#2
  else if row.e2.metric = m then 2#2
  else 3#2

/-- Traceback through rows n down to 1, newest first: the bit of the state at time t is decoded bit t-1, and the walk goes
on at the stored predecessor (42_convolutional.md R159). `acc` holds the bits decoded so far. -/
def traceback : List PmRow → TrellisState → Bits → Bits
  | [], _, acc => acc
  | row :: earlier, s, acc => traceback earlier (row.entry s).pred (inputBit s :: acc)

/-- The decoder: rows 0 to n, the best final state, traceback over the whole path. An empty input touches nothing
(42_convolutional.md R160). -/
def viterbi (p : Params) (rx : Bits) : Bits :=
  if rx.length / 2 = 0 then []
  else
    match (pathMetricRows p (initialRow p) rx).reverse with
    | [] => []
    | last :: earlier => traceback ((last :: earlier).dropLast) (bestState last) []

/-! ### Commands -/

/-- CONV_ENC: every call starts at state 0 (42_convolutional.md R150). -/
def execConvEnc (s : State) : Result :=
  s.command [s.capacityCheck] fun s =>
    s.withInput fun b => s.setOutput (convEncode 0#2 b) []

/-- VIT_DEC: TB_DEPTH has no effect (42_convolutional.md R160, R163). -/
def execVitDec (s : State) : Result :=
  s.command [s.capacityCheck, s.multipleCheck 2 .invalidLength] fun s =>
    s.withInput fun rx => s.setOutput (viterbi s.cfg rx) []

end Sys2Proof.Machine
end

