-- ==== Sys2Proof/Machine/GilbertElliott.lean ====
section
/-! DEFINITION. gilbert_elliott_transmitter: GE_CFG and GE_TX (spec 44_gilbert_elliott.md). -/

namespace Sys2Proof.Machine

/-- The transition attempt of one bit (44_gilbert_elliott.md R211 (1)). -/
def State.geTransition (s : State) (g : Channel) (ut : Nat) : Channel :=
  match g with
  | .good => if hit ut s.gePgb then .bad else .good
  | .bad => if hit ut s.gePbg then .good else .bad

/-- The error decision of one bit in the post-transition state (44_gilbert_elliott.md R211 (2)). -/
def State.geError (s : State) (g : Channel) (ue : Nat) : Bit :=
  match g with
  | .good => hit ue s.geEg
  | .bad => hit ue s.geEb

/-- The channel over a sequence of draw pairs, transition draw first: the flags and the final channel state
(44_gilbert_elliott.md R212). -/
def State.geRun (s : State) (g : Channel) : List Nat → Bits × Channel
  | ut :: ue :: rest =>
    let g' := s.geTransition g ut
    let (flags, final) := s.geRun g' rest
    (s.geError g' ue :: flags, final)
  | _ => ([], g)

/-- GE_CFG: validates the four parameters, commits them and starts in Good (44_gilbert_elliott.md R210). -/
def execGeCfg (s : State) : Result :=
  s.command
    [s.probabilityCheck s.param0, s.probabilityCheck s.param1, s.probabilityCheck s.param2,
      s.probabilityCheck s.param3]
    fun s => (s.setGe s.param0 s.param1 s.param2 s.param3).succeed

/-- GE_TX: exactly two draws per bit, and the final channel state is written back (44_gilbert_elliott.md R212, R213). -/
def execGeTx (s : State) : Result :=
  s.command [s.capacityCheck, s.geConfigured] fun s =>
    s.withInput fun b =>
      let run := s.geRun s.geState (s.draws (2 * s.len))
      ((s.afterDraws (2 * s.len)).setOutput (flipFlagged b run.1) run.1).setGeState run.2

end Sys2Proof.Machine
end

