-- ==== Sys2Proof/Machine/Flags.lean ====
section
/-! DEFINITION. The flags of the core: the STATUS word and its fields, and the error codes (spec 10_state.md R22, R25;
60_exceptions.md R230), and the Hamming correction flags (41_hamming.md R124, R127). -/

namespace Sys2Proof.Machine

/-- The code of an error (60_exceptions.md R230). -/
def ErrCode.code : ErrCode → BitVec 4
  | .none => 0#4
  | .invalidBlockSize => 1#4
  | .lengthError => 2#4
  | .invalidLength => 3#4
  | .invalidChannelParams => 4#4
  | .illegalCommand => 5#4
  | .capacityExceeded => 6#4
  | .notConfigured => 7#4

/-- The STATUS word: 24 reserved bits that read 0, ERR in bits 7..4, then GE_VALID, BSC_VALID, DONE and BUSY in bits 3 to
0 (10_state.md R25). -/
def State.statusWord (s : State) : Word :=
  0#24 ++ s.err.code ++ BitVec.ofBool s.geValid ++ BitVec.ofBool s.bscValid ++ BitVec.ofBool s.done ++
    BitVec.ofBool s.busy

/-- The correction flag of a block with syndrome `s` (41_hamming.md R122, R124). -/
def correctionFlag (syndrome : Nat) : Bit := syndrome != 0

/-- How many flags of a sequence are set. -/
def countSet (flags : Bits) : Nat := flags.countP id

end Sys2Proof.Machine
end

