-- ==== Sys2Proof/Machine/Hamming.lean ====
section
/-! DEFINITION. hamming_7_4_encoder and hamming_7_4_decoder: HAM_ENC_BLK, HAM_DEC_BLK, HAM_ENC_SEQ, HAM_DEC_SEQ and
HAM_CNT_CLR (spec 41_hamming.md). -/

namespace Sys2Proof.Machine

/-! ### Datapath -/

/-- Henc: the codeword [p1, p2, d0, p3, d1, d2, d3] of a 4-bit block (41_hamming.md R121). -/
def henc : Bits → Bits
  | [d0, d1, d2, d3] =>
    let p1 := (d0 ^^ d1) ^^ d3
    let p2 := (d0 ^^ d2) ^^ d3
    let p3 := (d1 ^^ d2) ^^ d3
    [p1, p2, d0, p3, d1, d2, d3]
  | _ => []

/-- The syndrome of a received word, a number 0 to 7 (41_hamming.md R122). -/
def syndrome : Bits → Nat
  | [c1, c2, d0, c4, d1, d2, d3] =>
    let p1 := (d0 ^^ d1) ^^ d3
    let p2 := (d0 ^^ d2) ^^ d3
    let p3 := (d1 ^^ d2) ^^ d3
    (c1 ^^ p1).toNat * 1 + (c2 ^^ p2).toNat * 2 + (c4 ^^ p3).toNat * 4
  | _ => 0

/-- Invert the bit at a 1-indexed position; position 0 is no position and inverts nothing. -/
def flipPosition : Nat → Bits → Bits
  | 0, c => c
  | _, [] => []
  | 1, b :: rest => (!b) :: rest
  | n + 2, b :: rest => b :: flipPosition (n + 1) rest

/-- The data bits [c3, c5, c6, c7] of a codeword (41_hamming.md R122). -/
def dataBits : Bits → Bits
  | [_, _, c3, _, c5, c6, c7] => [c3, c5, c6, c7]
  | _ => []

/-- Hdec: the data of the corrected word and the syndrome (41_hamming.md R122). -/
def hdec (c : Bits) : Bits × Nat :=
  (dataBits (flipPosition (syndrome c) c), syndrome c)

/-- Henc of each 4-bit group, in sequence order (41_hamming.md R126). -/
def hencSeq : Bits → Bits
  | d0 :: d1 :: d2 :: d3 :: rest => henc [d0, d1, d2, d3] ++ hencSeq rest
  | _ => []

/-- The data of each 7-bit block, independently and in order (41_hamming.md R127). -/
def hdecSeqData : Bits → Bits
  | c1 :: c2 :: c3 :: c4 :: c5 :: c6 :: c7 :: rest => (hdec [c1, c2, c3, c4, c5, c6, c7]).1 ++ hdecSeqData rest
  | _ => []

/-- The correction flag of each 7-bit block (41_hamming.md R127). -/
def hdecSeqFlags : Bits → Bits
  | c1 :: c2 :: c3 :: c4 :: c5 :: c6 :: c7 :: rest =>
    correctionFlag (hdec [c1, c2, c3, c4, c5, c6, c7]).2 :: hdecSeqFlags rest
  | _ => []

/-- Add a number of corrected blocks to HAM_CNT, modulo 2^32 (10_state.md R30). -/
def State.countCorrections (s : State) (n : Nat) : State := s.setHamCnt (s.hamCnt + BitVec.ofNat 32 n)

/-! ### Commands -/

/-- HAM_ENC_BLK (41_hamming.md R120). -/
def execHamEncBlk (s : State) : Result :=
  s.command [s.capacityCheck, s.blockCheck 4] fun s =>
    s.withInput fun d => s.setOutput (henc d) []

/-- HAM_DEC_BLK (41_hamming.md R124). -/
def execHamDecBlk (s : State) : Result :=
  s.command [s.capacityCheck, s.blockCheck 7] fun s =>
    s.withInput fun c =>
      let flag := correctionFlag (hdec c).2
      (s.setOutput (hdec c).1 [flag]).countCorrections flag.toNat

/-- HAM_ENC_SEQ (41_hamming.md R126). -/
def execHamEncSeq (s : State) : Result :=
  s.command [s.capacityCheck, s.multipleCheck 4 .lengthError] fun s =>
    s.withInput fun b => s.setOutput (hencSeq b) []

/-- HAM_DEC_SEQ (41_hamming.md R127). -/
def execHamDecSeq (s : State) : Result :=
  s.command [s.capacityCheck, s.multipleCheck 7 .lengthError] fun s =>
    s.withInput fun c =>
      (s.setOutput (hdecSeqData c) (hdecSeqFlags c)).countCorrections (countSet (hdecSeqFlags c))

/-- HAM_CNT_CLR: no operand, no capacity check (41_hamming.md R128). -/
def execHamCntClr (s : State) : Result :=
  s.command [] fun s => (s.setHamCnt 0#32).succeed

end Sys2Proof.Machine
end

