-- ==== Sys2Proof/Machine/Dispatch.lean ====
section
/-! DEFINITION. The dispatch of a command to its meaning: the completion of a decoded command, `Execute` and the writes of
spec 30_encoding.md R96. -/

namespace Sys2Proof.Machine

def exec (i : Instr) (s : State) : Host.Outcome State Fault Refusal :=
  match i with
  | .hamEncBlk => Sys2Proof.Machine.execHamEncBlk s
  | .hamDecBlk => Sys2Proof.Machine.execHamDecBlk s
  | .hamEncSeq => Sys2Proof.Machine.execHamEncSeq s
  | .hamDecSeq => Sys2Proof.Machine.execHamDecSeq s
  | .hamCntClr => Sys2Proof.Machine.execHamCntClr s
  | .convEnc => Sys2Proof.Machine.execConvEnc s
  | .vitDec => Sys2Proof.Machine.execVitDec s
  | .bscCfg => Sys2Proof.Machine.execBscCfg s
  | .bscTx => Sys2Proof.Machine.execBscTx s
  | .geCfg => Sys2Proof.Machine.execGeCfg s
  | .geTx => Sys2Proof.Machine.execGeTx s

end Sys2Proof.Machine
end

