-- ==== Sys2Proof/Machine/Bus.lean ====
section
/-! DEFINITION. The host's accesses to the window: the address map, register reads and writes, buffer reads and writes, and
the faults of an access (spec 10_state.md R23 to R37, 20_memory.md, 60_exceptions.md R242, R243, 70_reset_and_hazards.md
R265). -/

namespace Sys2Proof.Machine

/-! ### Address map -/

/-- The offset column of 10_state.md R23. -/
def RegName.offset : RegName → Nat
  | .cmd => 0x000
  | .status => 0x004
  | .inLen => 0x008
  | .outLen => 0x00C
  | .flagLen => 0x010
  | .tbDepth => 0x014
  | .hamCnt => 0x018
  | .geState => 0x01C
  | .param0 => 0x020
  | .param1 => 0x024
  | .param2 => 0x028
  | .param3 => 0x02C
  | .bscBer => 0x030
  | .gePgb => 0x034
  | .gePbg => 0x038
  | .geEg => 0x03C
  | .geEb => 0x040
  | .id => 0x044
  | .capIbuf => 0x048
  | .capProbw => 0x04C

/-- Every register of 10_state.md R23. -/
def allRegs : List RegName :=
  [.cmd, .status, .inLen, .outLen, .flagLen, .tbDepth, .hamCnt, .geState, .param0, .param1, .param2, .param3,
    .bscBer, .gePgb, .gePbg, .geEg, .geEb, .id, .capIbuf, .capProbw]

/-- The register at an offset of the register window; every other offset is reserved (20_memory.md R64). -/
def regAt (offset : Nat) : Option RegName := allRegs.find? fun r => r.offset == offset

/-- The byte address of word 0 of OBUF (20_memory.md R65). -/
def obufBase : Nat := 0x200000

/-- The byte address of word 0 of FBUF (20_memory.md R65). -/
def fbufBase : Nat := 0x300000

/-- The address of what a host program names (10_state.md R23, 20_memory.md R65). R65 gives an address for the words a buffer
has; here its formula is taken for every `k`, so a name past the end of a buffer is the address there, reserved or, from
k = 2^18 on, in the next window or past the last (DESIGN CHOICE, safe: log entry 22). -/
def Target.addr : Target → Nat
  | .reg r => r.offset
  | .ibuf k => ibufBase + 4 * k
  | .obuf k => obufBase + 4 * k
  | .fbuf k => fbufBase + 4 * k

/-- The word of a buffer of `bits` bits at `base` that an address names, if the buffer has it (20_memory.md R65). -/
def bufferIndex (base bits addr : Nat) : Option Nat :=
  if base ≤ addr ∧ (addr - base) / 4 < bits / 32 then some ((addr - base) / 4) else none

/-- What an access reaches: only an aligned 32-bit access to a location the map defines reaches anything
(20_memory.md R64, R65, R66). Addresses past the window reach nothing either: DESIGN CHOICE, safe, log entry 15. -/
def locate (p : Params) (addr width : Nat) : Option Target :=
  if width = 4 ∧ addr % 4 = 0 then
    if addr < 0x1000 then (regAt addr).map .reg
    else if addr < obufBase then (bufferIndex ibufBase p.ibufBits addr).map .ibuf
    else if addr < fbufBase then (bufferIndex obufBase p.obufBits addr).map .obuf
    else (bufferIndex fbufBase p.fbufBits addr).map .fbuf
  else none

/-! ### Registers -/

/-- GE_STATE[0]: 0 is Good, 1 is Bad (10_state.md R34). -/
def Channel.bit : Channel → Bit
  | .good => false
  | .bad => true

/-- The constant of the ID register (10_state.md R31). -/
def idValue : Word := 0x46454301#32

/-- The value a host read of a register returns; CMD cannot be read (10_state.md R23 to R37, 20_memory.md R70). -/
def State.regRead (s : State) : RegName → Option Word
  | .cmd => none
  | .status => some s.statusWord
  | .inLen => some s.inLen
  | .outLen => some (BitVec.ofNat 32 s.out.length)
  | .flagLen => some (BitVec.ofNat 32 s.flags.length)
  | .tbDepth => some s.tbDepth
  | .hamCnt => some s.hamCnt
  | .geState => some (0#31 ++ BitVec.ofBool s.geState.bit)
  | .param0 => some s.param0
  | .param1 => some s.param1
  | .param2 => some s.param2
  | .param3 => some s.param3
  | .bscBer => some s.bscBer
  | .gePgb => some s.gePgb
  | .gePbg => some s.gePbg
  | .geEg => some s.geEg
  | .geEb => some s.geEb
  | .id => some idValue
  | .capIbuf => some (BitVec.ofNat 32 s.cfg.ibufBits)
  | .capProbw => some (BitVec.ofNat 32 s.cfg.probW)

/-- A host write of a register: the RW registers store all 32 bits, a CMD write issues a command, and the others cannot
be written (10_state.md R23, 20_memory.md R70, 30_encoding.md R95). -/
def State.regWrite (s : State) (v : Word) : RegName → Option State
  | .cmd => some (s.issue v)
  | .inLen => some { s with inLen := v }
  | .tbDepth => some { s with tbDepth := v }
  | .param0 => some { s with param0 := v }
  | .param1 => some { s with param1 := v }
  | .param2 => some { s with param2 := v }
  | .param3 => some { s with param3 := v }
  | .status | .outLen | .flagLen | .hamCnt | .geState | .bscBer | .gePgb | .gePbg | .geEg | .geEb | .id
  | .capIbuf | .capProbw => none

/-! ### Buffers -/

/-- The word whose bits, most significant first, are the given 32 (20_memory.md R62). -/
def wordOfBits (b : Bits) : Word := (BitVec.ofBoolListBE b).setWidth 32

/-- Word `k` of an output buffer: its valid bits, and any-value bits past their end (20_memory.md R69). -/
def bufferWord (valid : Bits) (k : Nat) (free : Word) : Word :=
  wordOfBits ((List.range 32).map fun j => valid.getD (32 * k + j) (free.getMsbD j))

/-- A host read of a word of OBUF or FBUF; each read takes fresh any-value bits (20_memory.md R69). -/
def State.readOutputWord (s : State) (valid : Bits) (k : Nat) : Word × State :=
  let (free, port) := s.anyBits.next Config.freeTail
  (bufferWord valid k free, s.setAnyBits port)

/-! ### Accesses -/

/-- While BUSY the host may only read STATUS (70_reset_and_hazards.md R265). -/
def State.blocked (s : State) (statusRead : Bool) : Bool := s.busy && !statusRead

/-- MemRead(addr, width): the value read and the state after it (20_memory.md R66 to R70, 70_reset_and_hazards.md R265).
An access that is barred by BUSY and also a bus error is reported as the former: DESIGN CHOICE, safe, log
entry 8. -/
def busRead (addr width : Nat) (s : State) : Except Fault (Word × State) :=
  let target := locate s.cfg addr width
  if s.blocked (target == some (.reg .status)) then .error .hostAccessWhileBusy
  else
    match target with
    | none => .error .busError
    | some (.reg r) =>
      match s.regRead r with
      | some v => .ok (v, s)
      | none => .error .busError
    | some (.ibuf k) =>
      match s.ibufWord k with
      | some v => .ok (v, s)
      | none => .error .uninitializedInput
    | some (.obuf k) => .ok (s.readOutputWord s.out k)
    | some (.fbuf k) => .ok (s.readOutputWord s.flags k)

/-- MemWrite(addr, width, v) (20_memory.md R66 to R68, R70, 30_encoding.md R95, 70_reset_and_hazards.md R265). -/
def busWrite (addr width : Nat) (v : Word) (s : State) : Except Fault State :=
  if s.blocked false then .error .hostAccessWhileBusy
  else
    match locate s.cfg addr width with
    | none => .error .busError
    | some (.reg r) =>
      match s.regWrite v r with
      | some t => .ok t
      | none => .error .busError
    | some (.ibuf k) => .ok (s.setMem (s.mem.writeWord (ibufBase + 4 * k) v))
    | some (.obuf _) | some (.fbuf _) => .error .busError

end Sys2Proof.Machine
end

