-- ==== Sys2Proof/Machine/HostProgram.lean ====
section
/-! DEFINITION. The host agent: the expansion of a host program's lines and one step of the host (spec 30_encoding.md
R102, 20_memory.md R73). -/

namespace Sys2Proof.Machine

/-! ### Expansion of a program -/

/-- How many operations a line expands to (30_encoding.md R102). -/
def Line.size : Line → Nat
  | .run _ => 3
  | .poll => 2
  | .copy n => 2 * n
  | .label _ => 0
  | .wr .. | .rd .. | .check .. | .ifGoto .. | .halt => 1

/-- The position each label of a program names: that of the next line's first operation (30_encoding.md R102). A label that
stands on two lines is listed twice, the first line first, and one on the last line, which has no next line to name, is given
the position past the last operation, where the host idles (DESIGN CHOICE, safe: log entry 21). -/
def labelPositions (base : Nat) : List Line → List (Nat × Nat)
  | [] => []
  | .label l :: rest => (l, base) :: labelPositions base rest
  | line :: rest => labelPositions (base + line.size) rest

/-- POLL at position `base`: read STATUS until bit 0 is 0 (30_encoding.md R102). Its `t` is the variable
`scratch`, apart from every variable `named n` (DESIGN CHOICE, safe: log entry 17). -/
def pollOps (base : Nat) : List HostOp :=
  [.read (Target.reg .status).addr 4 .scratch, .branchIf .scratch 1#32 base]

/-- COPY OBUF->IBUF for the words `k` of a list (30_encoding.md R102). -/
def copyOps : List Nat → List HostOp
  | [] => []
  | k :: rest =>
    .read (Target.obuf k).addr 4 .scratch :: .write (Target.ibuf k).addr 4 (.var .scratch) :: copyOps rest

/-- The mask of a CHECK that gives none: all 32 bits (30_encoding.md R102). -/
def defaultMask : Word := 0xFFFFFFFF#32

/-- The operations of one line that stands at position `base` (30_encoding.md R102). R102 does not say what a GOTO names
whose label stands on two lines, on none, or on the last: here the first such line, no program at all, and the position past
the last operation (DESIGN CHOICE, safe: log entry 21). -/
def Line.expand (labels : List (Nat × Nat)) (base : Nat) : Line → Option (List HostOp)
  | .wr name v => some [.write name.addr 4 (.imm v)]
  | .rd name x => some [.read name.addr 4 x]
  | .run i => some (.write (Target.reg .cmd).addr 4 (.imm (encode i)) :: pollOps (base + 1))
  | .poll => some (pollOps base)
  | .copy n => some (copyOps (List.range n))
  | .check x v m => some [.check x v (m.getD defaultMask)]
  | .label _ => some []
  | .ifGoto x m l => (labels.lookup l).map fun target => [.branchIf x m target]
  | .halt => some [.halt]

/-- The operations of lines that start at position `base`. -/
def expandLines (labels : List (Nat × Nat)) (base : Nat) : List Line → Option (List HostOp)
  | [] => some []
  | line :: rest =>
    match line.expand labels base, expandLines labels (base + line.size) rest with
    | some ops, some more => some (ops ++ more)
    | _, _ => none

/-- The operations of a host program, or nothing where it names a label it does not have (30_encoding.md R102; DESIGN CHOICE,
safe: log entry 21). -/
def assemble (lines : List Line) : Option (List HostOp) := expandLines (labelPositions 0 lines) 0 lines

/-- A state with a host program in place, at its first operation: programs are loaded from outside (DESIGN CHOICE, safe: log
entry 10). -/
def State.withProgram (s : State) (ops : List HostOp) : State :=
  s.setHost { program := ops, pc := 0, vars := [], checkFailed := false }

/-! ### One step of the host -/

/-- The value of a variable, if the program has given it one. -/
def HostAgent.value (h : HostAgent) (x : Var) : Option Word := h.vars.lookup x

/-- Give a variable a value. -/
def HostAgent.assign (h : HostAgent) (x : Var) (v : Word) : HostAgent :=
  { h with vars := (x, v) :: h.vars.filter fun e => e.1 != x }

/-- Go to the operation at a position. -/
def HostAgent.goto (h : HostAgent) (target : Nat) : HostAgent := { h with pc := target }

/-- Go to the next operation. -/
def HostAgent.advance (h : HostAgent) : HostAgent := h.goto (h.pc + 1)

/-- Record whether a CHECK held: (var & m) = (value & m) (30_encoding.md R102). DESIGN CHOICE, safe: log
entry 12. -/
def HostAgent.recordCheck (h : HostAgent) (v value mask : Word) : HostAgent :=
  { h with checkFailed := h.checkFailed || (v &&& mask) != (value &&& mask) }

/-- Run the rest of a host operation on the value of a variable. -/
def State.withValue (s : State) (x : Var) (k : Word → Result) : Result :=
  match s.host.value x with
  | some v => k v
  | none => .refused .hostVariableUnset

/-- A bus write by the host, after which it goes on (20_memory.md R73). -/
def hostWrite (addr width : Nat) (v : Word) (s : State) : Result :=
  match busWrite addr width v s with
  | .ok t => .next (t.setHost t.host.advance)
  | .error f => .fault f

/-- A bus read by the host, after which it goes on with the value in a variable (20_memory.md R73). -/
def hostRead (addr width : Nat) (x : Var) (s : State) : Result :=
  match busRead addr width s with
  | .ok (v, t) => .next (t.setHost (t.host.assign x v).advance)
  | .error f => .fault f

/-- One operation of the host (30_encoding.md R102). -/
def performHostOp (op : HostOp) (s : State) : Result :=
  match op with
  | .write addr width (.imm v) => hostWrite addr width v s
  | .write addr width (.var x) => s.withValue x fun v => hostWrite addr width v s
  | .read addr width x => hostRead addr width x s
  | .check x value mask =>
    s.withValue x fun v => .next (s.setHost (s.host.recordCheck v value mask).advance)
  | .branchIf x mask target =>
    s.withValue x fun v =>
      .next (s.setHost (if v &&& mask ≠ 0#32 then s.host.goto target else s.host.advance))
  | .halt => .next s

/-- The host's step: its next operation, or nothing once its program has ended (DEDUCED, safe: log entry 16). -/
def hostStep (s : State) : Result :=
  match s.host.program[s.host.pc]? with
  | some op => performHostOp op s
  | none => .next s

end Sys2Proof.Machine
end

