-- ==== Sys2Proof/Machine/Agents.lean ====
section
/-! DEFINITION. The two agents and the reset input: the core's completion step, the host's step, hardware reset, and which
of them moves (spec 20_memory.md R73, 30_encoding.md R96, 70_reset_and_hazards.md R260, R270). -/

namespace Sys2Proof.Machine

/-- Completion of the pending word: check 1 of 30_encoding.md R97, then the command (R94, R96). -/
def completeWord (w : Word) (s : State) : Result :=
  match decode w with
  | .ok i => exec i s
  | .error _ => s.raise .illegalCommand

/-- The core's step: completion where a word is pending, else nothing (30_encoding.md R96). -/
def coreStep (s : State) : Result :=
  match s.pending with
  | some w => completeWord w s
  | none => .next s

/-- The step of one agent. -/
def turnStep (t : Turn) (s : State) : Result :=
  match t with
  | .core => coreStep s
  | .host => hostStep s
  | .reset => .next s.hardwareReset

/-- The state a hardware reset leaves after a step from `s`, whatever the step answered: a model fault is also left by
reset, and a faulting access or completion has had no effect (70_reset_and_hazards.md R260, 60_exceptions.md R240) but that
its turn is used up. DEDUCED, safe: log entry 13. -/
def resetAfter (s : State) : Result → State
  | .next t => t.hardwareReset
  | .fault _ => s.afterTurn.hardwareReset
  | .refused _ => s.afterTurn.hardwareReset

/-- Who moves where the list of turns has run out: the core while a word is pending, else the host. So a pending word completes
when the free turns before it have passed: after some finite, unbounded time, which is the weak fairness of
70_reset_and_hazards.md R270. DESIGN CHOICE, safe: log entry 2. -/
def State.defaultTurn (s : State) : Turn := if s.pending.isSome then .core else .host

/-- Who moves next: the first of the turns to come, or the default one. -/
def State.nextTurn (s : State) : Turn := s.schedule.head?.getD s.defaultTurn

/-- One transition of the machine: the next turn, used up. -/
def agentStep (s : State) : Result := turnStep s.nextTurn s.afterTurn

end Sys2Proof.Machine
end

