-- ==== Sys2Proof/Machine/Step.lean ====
section
/-! DEFINITION. One step of the machine, and the placing of a command (spec 30_encoding.md R95, R96). -/

namespace Sys2Proof.Machine

/-- One step: the next state, a model fault or a refusal (Machine/Agents.lean). -/
def step (s : State) : Host.Outcome State Fault Refusal := agentStep s

/-- The state in which the very next step completes the command whose word has the given bits: the word is issued, as the
host's CMD write issues it, and the core's turn is the next one (30_encoding.md R95). DESIGN CHOICE, safe: log entry 10. -/
def State.withFetchWord (s : State) (nbits w : Nat) : State := (s.issue (tableWord nbits w)).setSchedule [.core]

end Sys2Proof.Machine
end

