-- ==== Sys2Proof/Machine/HostConventions.lean ====
section
/-! DEFINITION. The host's conventions for bytes and text, outside the core (spec 20_memory.md R63, 41_hamming.md R129,
R130). No step of the machine uses them. -/

namespace Sys2Proof.Machine

/-- The 8-bit big-endian expansion of a byte (20_memory.md R63). -/
def byteBits (b : Byte) : Bits := (List.range 8).map fun j => b.getMsbD j

/-- A byte string as a bit sequence, in input order (20_memory.md R63). -/
def bytesToBits : List Byte → Bits
  | [] => []
  | b :: rest => byteBits b ++ bytesToBits rest

/-- The inverse; nothing (LengthError, a host-side failure) where the length is not a multiple of 8 (20_memory.md R63). -/
def bitsToBytes : Bits → Option (List Byte)
  | [] => some []
  | b0 :: b1 :: b2 :: b3 :: b4 :: b5 :: b6 :: b7 :: rest =>
    (bitsToBytes rest).map fun bytes => BitVec.ofBoolListBE [b0, b1, b2, b3, b4, b5, b6, b7] :: bytes
  | _ => none

/-- Word `k` of a buffer as a host packs a bit sequence into it; bits past its end are 0 (20_memory.md R62, R63). DESIGN
CHOICE, safe: log entry 18. -/
def packWord (b : Bits) (k : Nat) : Word := bufferWord b k 0#32

/-- The input of HAM_ENC_SEQ for a text: its characters' bytes, high half first (41_hamming.md R129). -/
def textInput (text : List Byte) : Bits := bytesToBits text

/-- The bytes of a decoded text, where every half has its partner (41_hamming.md R130). -/
def textOfOutput (decoded : Bits) : Option (List Byte) := bitsToBytes decoded

end Sys2Proof.Machine
end

