-- ==== Sys2Proof/Safety.lean ====
section
/-! DEFINITION. The terms the claims use: safe runs, the invariants of the machine, what an instruction leaves unchanged,
and distances between bit sequences. -/

namespace Sys2Proof.Machine

/-! ### Runs -/

/-- A step that neither stops with a model fault nor is refused (60_exceptions.md R240: a claim about a program takes "no
model fault" as a premise). -/
def SafeStep (s : State) : Prop := ∃ t, step s = .next t

/-- The next step is the core's completion of the command `i` (30_encoding.md R96). -/
def Completes (s : State) (i : Instr) : Prop :=
  s.pending = some (encode i) ∧ (s.schedule = [] ∨ s.schedule.head? = some .core)

/-- The next step is the hardware reset (70_reset_and_hazards.md R260). -/
def Resets (s : State) : Prop := s.schedule.head? = some .reset

/-- The state a completion with a code leaves when the command makes no other update (30_encoding.md R96, R98). -/
def endedWith (s : State) (code : ErrCode) : State :=
  { s with err := code, busy := false, done := true, pending := none }

/-! ### Invariants -/

/-- BUSY is set exactly while a word is pending, and then DONE and ERR are clear (10_state.md R25, R46; 30_encoding.md R95,
R96). -/
abbrev StatusInv (s : State) : Prop :=
  s.busy = s.pending.isSome ∧ (s.busy = true → s.done = false ∧ s.err = .none)

/-- IBUF's bytes are in canonical form, lie in its window, and are written in whole words (10_state.md R38, 20_memory.md
R65, R66). -/
abbrev MemoryInv (s : State) : Prop :=
  s.mem.wf = true ∧
    ∀ c ∈ s.mem, 0x100000 ≤ c.1 ∧ c.1 < 0x100000 + 4 * (s.cfg.ibufBits / 32) ∧
      (s.mem.readWord (c.1 - c.1 % 4)).isSome = true

/-- The live channel parameters are probabilities, and a channel never configured is at its reset values (10_state.md R36,
R37, R44, R50; 30_encoding.md R92). -/
abbrev ChannelInv (s : State) : Prop :=
  (s.bscBer.toNat ≤ 2 ^ s.cfg.probW ∧ s.gePgb.toNat ≤ 2 ^ s.cfg.probW ∧ s.gePbg.toNat ≤ 2 ^ s.cfg.probW ∧
      s.geEg.toNat ≤ 2 ^ s.cfg.probW ∧ s.geEb.toNat ≤ 2 ^ s.cfg.probW) ∧
    (s.bscValid = false → s.bscBer = 0#32) ∧
    (s.geValid = false →
      s.gePgb = 0#32 ∧ s.gePbg = 0#32 ∧ s.geEg = 0#32 ∧ s.geEb = 0#32 ∧ s.geState = .good)

/-- OUT_LEN ≤ OBUF_BITS and FLAG_LEN ≤ FBUF_BITS (10_state.md R27, R28; 30_encoding.md R99). -/
abbrev BufferInv (s : State) : Prop :=
  s.out.length ≤ 2 * s.cfg.ibufBits ∧ s.flags.length ≤ s.cfg.ibufBits

/-! ### Frames -/

/-- Every byte of memory reads as before. -/
def SameMemory (s t : State) : Prop := ∀ a, t.mem.read a = s.mem.read a

/-- The registers the host writes are as before: IN_LEN, TB_DEPTH and PARAM0..3. -/
def SameHostRegs (s t : State) : Prop :=
  t.inLen = s.inLen ∧ t.tbDepth = s.tbDepth ∧ t.param0 = s.param0 ∧ t.param1 = s.param1 ∧
    t.param2 = s.param2 ∧ t.param3 = s.param3

/-- BSC_BER and BSC_VALID are as before. -/
def SameBsc (s t : State) : Prop := t.bscBer = s.bscBer ∧ t.bscValid = s.bscValid

/-- The Gilbert-Elliott parameters and GE_VALID are as before. -/
def SameGeParams (s t : State) : Prop :=
  t.gePgb = s.gePgb ∧ t.gePbg = s.gePbg ∧ t.geEg = s.geEg ∧ t.geEb = s.geEb ∧ t.geValid = s.geValid

/-- OBUF, OUT_LEN, FBUF and FLAG_LEN are as before. -/
def SameOutput (s t : State) : Prop := t.out = s.out ∧ t.flags = s.flags

/-- What no command touches: the parameters, the host agent, the turns to come and the any-value bits. -/
def SameEnvironment (s t : State) : Prop :=
  t.cfg = s.cfg ∧ t.host = s.host ∧ t.schedule = s.schedule ∧ t.refills = s.refills ∧ t.anyBits = s.anyBits

/-- STATUS and PENDING after a completion: not busy, done, nothing pending (30_encoding.md R96). -/
def Completed (t : State) : Prop := t.busy = false ∧ t.done = true ∧ t.pending = none

/-! ### Bit sequences and draws -/

/-- The number of positions at which two sequences differ. -/
def distance : Bits → Bits → Nat
  | x :: xs, y :: ys => (x ^^ y).toNat + distance xs ys
  | _, _ => 0

/-- The `n`-bit block number `g` of a sequence. -/
def block (b : Bits) (n g : Nat) : Bits := (b.drop (n * g)).take n

/-- The word the entropy port gives for the `k`-th draw from now: the `k`-th queued word, or past the queue the free value
at that position of the stream (60_exceptions.md R245). -/
def portWord (s : State) (k : Nat) : Word := s.entropy.queue.getD k (Config.freeDraw (s.entropy.taken + k))

/-- The `k`-th draw from now: an integer below 2^PROB_W (60_exceptions.md R245). -/
def drawAt (s : State) (k : Nat) : Nat := (portWord s k).toNat % 2 ^ s.cfg.probW

/-- The commands that read input: every command but HAM_CNT_CLR, BSC_CFG and GE_CFG (30_encoding.md R97). -/
def ReadsInput (i : Instr) : Prop := i ≠ .hamCntClr ∧ i ≠ .bscCfg ∧ i ≠ .geCfg

end Sys2Proof.Machine
end

