-- ==== Sys2Proof/Certificates/Slice0/Obligations.lean ====
section
/-! DEFINITION. The statements about the FEC transmission core, from the numbered rules of its spec. -/

open Sys2Proof Sys2Proof.Machine

/-! ### Encoding and decoding -/

/-- 30_encoding.md R91: a word is legal exactly when it is one of the eleven, and then it selects that command. -/
def Obligations.DecoderAcceptsExactlyTheElevenWords : Prop :=
  ∀ (w : Word) (i : Instr), decode w = .ok i ↔
    (i, w) ∈ [(Instr.hamEncBlk, 0x00000001#32), (.hamDecBlk, 0x00000002#32), (.hamEncSeq, 0x00000003#32),
      (.hamDecSeq, 0x00000004#32), (.hamCntClr, 0x00000005#32), (.convEnc, 0x00000006#32), (.vitDec, 0x00000007#32),
      (.bscCfg, 0x00000008#32), (.bscTx, 0x00000009#32), (.geCfg, 0x0000000A#32), (.geTx, 0x0000000B#32)]

/-- 30_encoding.md R90, R91: decoding the word of a command gives the command back. -/
def Obligations.EncodedCommandDecodesToItself : Prop := ∀ i : Instr, decode (encode i) = .ok i

/-- 30_encoding.md R91: a word of each unit, written out from the table. -/
def Obligations.SampleWordsDecode : Prop :=
  decode 0b00000000000000000000000000000001#32 = .ok .hamEncBlk ∧
    decode 0b00000000000000000000000000000100#32 = .ok .hamDecSeq ∧
    decode 0b00000000000000000000000000000110#32 = .ok .convEnc ∧
    decode 0b00000000000000000000000000000111#32 = .ok .vitDec ∧
    decode 0b00000000000000000000000000001001#32 = .ok .bscTx ∧
    decode 0b00000000000000000000000000001011#32 = .ok .geTx

/-! ### Steps, issue and completion -/

/-- 30_encoding.md R96: with a pending word that decodes, the core's step is exec of the command it decodes to, at that
state less the turn it used (log entry 2: who moves, and the free turns that follow the default one); the model's withFetchWord
places a word so that the very next step does this (log entry 10). -/
def Obligations.StepRunsTheDecodedCommand : Prop :=
  (∀ (s : State) (w : Word) (i : Instr), s.pending = some w → decode w = .ok i →
    (s.schedule = [] →
      step s = exec i { s with schedule := Config.freeTurns s.refills, refills := s.refills + 1 }) ∧
    (∀ rest, s.schedule = .core :: rest → step s = exec i { s with schedule := rest })) ∧
  (∀ (s : State) (nbits w : Nat) (i : Instr), decodeTableWord nbits w = some i →
    step (s.withFetchWord nbits w) = exec i { s.withFetchWord nbits w with schedule := [] })

/-- 30_encoding.md R94: an illegal word completes with IllegalCommand and changes nothing else. -/
def Obligations.IllegalWordCompletesWithIllegalCommand : Prop :=
  ∀ (s : State) (w : Word), s.pending = some w →
    (w.toNat / 16 ≠ 0 ∨ w.toNat % 16 = 0 ∨ 12 ≤ w.toNat % 16) →
    coreStep s = .next { s with err := .illegalCommand, busy := false, done := true, pending := none }

/-- 20_memory.md R73, 30_encoding.md R96; the choice of who moves is the model's (log entry 2). -/
def Obligations.HostMovesWhenNothingIsPending : Prop :=
  ∀ s : State,
    (s.schedule = [] → s.pending = none →
      step s = hostStep { s with schedule := Config.freeTurns s.refills, refills := s.refills + 1 }) ∧
    (∀ rest, s.schedule = .host :: rest → step s = hostStep { s with schedule := rest }) ∧
    (∀ rest, s.schedule = .core :: rest → s.pending = none → step s = .next { s with schedule := rest })

/-- 30_encoding.md R95: what a CMD write does while BUSY = 0, and that it faults while BUSY = 1. -/
def Obligations.CommandWriteIssues : Prop :=
  ∀ (s : State) (v : Word),
    (s.busy = false →
      busWrite 0x000 4 v s = .ok { s with pending := some v, busy := true, done := false, err := .none }) ∧
    (s.busy = true → busWrite 0x000 4 v s = .error .hostAccessWhileBusy)

/-- 30_encoding.md R96: every completion, in error or not, leaves the core not busy, done and with nothing pending, and
touches neither memory nor the host's registers nor anything outside the core. -/
def Obligations.CompletionClearsBusyAndPending : Prop :=
  ∀ (s t : State) (w : Word), s.pending = some w → coreStep s = .next t →
    Completed t ∧ SameMemory s t ∧ SameHostRegs s t ∧ SameEnvironment s t

/-- 30_encoding.md R102, 20_memory.md R73: the host's operations (bus write, bus read, CHECK, IF, HALT); 60_exceptions.md R240,
R242, R243 and 70_reset_and_hazards.md R265: an access that faults stops the machine with its fault. What a failed CHECK leaves
is the model's choice (log entry 12), and so are that the host idles past its last operation (log entry 16, DEDUCED) and that
it stops where a variable has no value (log entry 11). -/
def Obligations.HostOperationsRunInOrder : Prop :=
  ∀ s : State,
    (∀ addr width v t, s.host.program[s.host.pc]? = some (.write addr width (.imm v)) →
      busWrite addr width v s = .ok t → hostStep s = .next { t with host := { t.host with pc := t.host.pc + 1 } }) ∧
    (∀ addr width x v t, s.host.program[s.host.pc]? = some (.write addr width (.var x)) → s.host.value x = some v →
      busWrite addr width v s = .ok t → hostStep s = .next { t with host := { t.host with pc := t.host.pc + 1 } }) ∧
    (∀ addr width x v t, s.host.program[s.host.pc]? = some (.read addr width x) → busRead addr width s = .ok (v, t) →
      ∃ h, hostStep s = .next { t with host := h } ∧ h.value x = some v ∧ h.pc = t.host.pc + 1 ∧
        h.program = t.host.program ∧ ∀ y, y ≠ x → h.value y = t.host.value y) ∧
    (∀ x v mask target, s.host.program[s.host.pc]? = some (.branchIf x mask target) → s.host.value x = some v →
      hostStep s = .next { s with host := { s.host with pc := if v &&& mask = 0#32 then s.host.pc + 1 else target } }) ∧
    (∀ x v value mask, s.host.program[s.host.pc]? = some (.check x value mask) → s.host.value x = some v →
      hostStep s = .next { s with host := { s.host with
        pc := s.host.pc + 1
        checkFailed := if v &&& mask = value &&& mask then s.host.checkFailed else true } }) ∧
    (s.host.program[s.host.pc]? = some .halt ∨ s.host.program[s.host.pc]? = none → hostStep s = .next s) ∧
    (∀ addr width v f, s.host.program[s.host.pc]? = some (.write addr width (.imm v)) →
      busWrite addr width v s = .error f → hostStep s = .fault f) ∧
    (∀ addr width x v f, s.host.program[s.host.pc]? = some (.write addr width (.var x)) → s.host.value x = some v →
      busWrite addr width v s = .error f → hostStep s = .fault f) ∧
    (∀ addr width x f, s.host.program[s.host.pc]? = some (.read addr width x) → busRead addr width s = .error f →
      hostStep s = .fault f) ∧
    (∀ x, s.host.value x = none →
      (∃ addr width, s.host.program[s.host.pc]? = some (.write addr width (.var x))) ∨
        (∃ value mask, s.host.program[s.host.pc]? = some (.check x value mask)) ∨
        (∃ mask target, s.host.program[s.host.pc]? = some (.branchIf x mask target)) →
      hostStep s = .refused .hostVariableUnset)

/-! ### Host accesses -/

/-- 70_reset_and_hazards.md R265: while BUSY the host may only read STATUS; any other access faults. The one access to which
BusError would apply as well is reported as HostAccessWhileBusy by the model's choice (log entry 8). -/
def Obligations.BusyHostMayOnlyReadStatus : Prop :=
  ∀ (s : State) (addr width : Nat) (v : Word), s.busy = true →
    busRead 0x004 4 s = .ok (s.statusWord, s) ∧
    (¬ (addr = 0x004 ∧ width = 4) → busRead addr width s = .error .hostAccessWhileBusy) ∧
    busWrite addr width v s = .error .hostAccessWhileBusy

/-- 20_memory.md R66: any other width, or a misaligned address, is BusError. -/
def Obligations.OnlyAlignedWordAccesses : Prop :=
  ∀ (s : State) (addr width : Nat) (v : Word), s.busy = false → (width ≠ 4 ∨ addr % 4 ≠ 0) →
    busRead addr width s = .error .busError ∧ busWrite addr width v s = .error .busError

/-- 20_memory.md R67 with R64, R65: a reserved address, a write to a read-only register, a read of CMD and a write to OBUF or
FBUF are BusError. The last range has no upper bound: that addresses from 0x400000 on, outside the window, are BusError too is
the model's choice (log entry 15, DESIGN CHOICE). -/
def Obligations.ReservedAndReadOnlyAccessesFault : Prop :=
  ∀ (s : State) (addr : Nat) (v : Word), s.busy = false →
    ((0x050 ≤ addr ∧ addr < 0x100000 ∨
        0x100000 + 4 * (s.cfg.ibufBits / 32) ≤ addr ∧ addr < 0x200000 ∨
        0x200000 + 4 * (2 * s.cfg.ibufBits / 32) ≤ addr ∧ addr < 0x300000 ∨
        0x300000 + 4 * (s.cfg.ibufBits / 32) ≤ addr) →
      busRead addr 4 s = .error .busError ∧ busWrite addr 4 v s = .error .busError) ∧
    (addr ∈ [0x004, 0x00C, 0x010, 0x018, 0x01C, 0x030, 0x034, 0x038, 0x03C, 0x040, 0x044, 0x048, 0x04C] →
      busWrite addr 4 v s = .error .busError) ∧
    busRead 0x000 4 s = .error .busError ∧
    (0x200000 ≤ addr ∧ addr < 0x400000 → busWrite addr 4 v s = .error .busError)

/-- 20_memory.md R70 with 10_state.md R26, R29, R35: an RW register stores all 32 bits, changes nothing else and reads back. -/
def Obligations.ReadWriteRegistersReadBack : Prop :=
  ∀ (s : State) (v : Word), s.busy = false →
    (busWrite 0x008 4 v s = .ok { s with inLen := v } ∧
      busRead 0x008 4 { s with inLen := v } = .ok (v, { s with inLen := v })) ∧
    (busWrite 0x014 4 v s = .ok { s with tbDepth := v } ∧
      busRead 0x014 4 { s with tbDepth := v } = .ok (v, { s with tbDepth := v })) ∧
    (busWrite 0x020 4 v s = .ok { s with param0 := v } ∧
      busRead 0x020 4 { s with param0 := v } = .ok (v, { s with param0 := v })) ∧
    (busWrite 0x024 4 v s = .ok { s with param1 := v } ∧
      busRead 0x024 4 { s with param1 := v } = .ok (v, { s with param1 := v })) ∧
    (busWrite 0x028 4 v s = .ok { s with param2 := v } ∧
      busRead 0x028 4 { s with param2 := v } = .ok (v, { s with param2 := v })) ∧
    (busWrite 0x02C 4 v s = .ok { s with param3 := v } ∧
      busRead 0x02C 4 { s with param3 := v } = .ok (v, { s with param3 := v }))

/-- 10_state.md R25: the fields of the STATUS word, and that reading it changes nothing. -/
def Obligations.StatusReadsItsFields : Prop :=
  ∀ s : State,
    busRead 0x004 4 s = .ok (s.statusWord, s) ∧
    s.statusWord.getLsbD 0 = s.busy ∧ s.statusWord.getLsbD 1 = s.done ∧ s.statusWord.getLsbD 2 = s.bscValid ∧
    s.statusWord.getLsbD 3 = s.geValid ∧ s.statusWord.toNat < 256 ∧
    s.statusWord.toNat / 16 =
      (match s.err with
        | .none => 0
        | .invalidBlockSize => 1
        | .lengthError => 2
        | .invalidLength => 3
        | .invalidChannelParams => 4
        | .illegalCommand => 5
        | .capacityExceeded => 6
        | .notConfigured => 7)

/-- 10_state.md R23, R27, R28, R30 to R34, R36, R37: what the read-only registers read as. -/
def Obligations.ReadOnlyRegistersRead : Prop :=
  ∀ s : State, s.busy = false →
    busRead 0x00C 4 s = .ok (BitVec.ofNat 32 s.out.length, s) ∧
    busRead 0x010 4 s = .ok (BitVec.ofNat 32 s.flags.length, s) ∧
    busRead 0x018 4 s = .ok (s.hamCnt, s) ∧
    busRead 0x01C 4 s = .ok (if s.geState = .bad then 1#32 else 0#32, s) ∧
    busRead 0x030 4 s = .ok (s.bscBer, s) ∧
    busRead 0x034 4 s = .ok (s.gePgb, s) ∧ busRead 0x038 4 s = .ok (s.gePbg, s) ∧
    busRead 0x03C 4 s = .ok (s.geEg, s) ∧ busRead 0x040 4 s = .ok (s.geEb, s) ∧
    busRead 0x044 4 s = .ok (0x46454301#32, s) ∧
    busRead 0x048 4 s = .ok (BitVec.ofNat 32 s.cfg.ibufBits, s) ∧
    busRead 0x04C 4 s = .ok (BitVec.ofNat 32 s.cfg.probW, s)

/-- 20_memory.md R68, R61: a word written to IBUF is the word read back; every byte outside it, and everything else, is
unchanged; an unwritten word faults when the host reads it. -/
def Obligations.IbufWordReadsBack : Prop :=
  ∀ (s : State) (k : Nat) (v : Word), s.cfg.wf = true → s.busy = false → k < s.cfg.ibufBits / 32 →
    (∃ m, busWrite (0x100000 + 4 * k) 4 v s = .ok { s with mem := m } ∧
      busRead (0x100000 + 4 * k) 4 { s with mem := m } = .ok (v, { s with mem := m }) ∧
      (∀ a, a < 0x100000 + 4 * k ∨ 0x100000 + 4 * k + 4 ≤ a → m.read a = s.mem.read a)) ∧
    (s.mem.read (0x100000 + 4 * k) = none → busRead (0x100000 + 4 * k) 4 s = .error .uninitializedInput)

/-- 20_memory.md R69: a word of OBUF or FBUF holds the valid bits, most significant first; a bit past their end is whatever
the environment supplies for this read. -/
def Obligations.OutputBuffersReadValidBits : Prop :=
  ∀ (s : State) (k : Nat), s.cfg.wf = true → s.busy = false →
    (k < 2 * s.cfg.ibufBits / 32 → ∃ w t, busRead (0x200000 + 4 * k) 4 s = .ok (w, t) ∧
      t = { s with anyBits := t.anyBits } ∧
      ∀ j < 32, (∀ b, s.out[32 * k + j]? = some b → w.getLsbD (31 - j) = b) ∧
        (s.out.length ≤ 32 * k + j → ∀ x rest, s.anyBits.queue = x :: rest →
          w.getLsbD (31 - j) = x.getLsbD (31 - j))) ∧
    (k < s.cfg.ibufBits / 32 → ∃ w t, busRead (0x300000 + 4 * k) 4 s = .ok (w, t) ∧
      t = { s with anyBits := t.anyBits } ∧
      ∀ j < 32, (∀ b, s.flags[32 * k + j]? = some b → w.getLsbD (31 - j) = b) ∧
        (s.flags.length ≤ 32 * k + j → ∀ x rest, s.anyBits.queue = x :: rest →
          w.getLsbD (31 - j) = x.getLsbD (31 - j)))

/-- 20_memory.md R70, R71: no read has a side effect; all that a read moves is the model's source of any-value bits, and only
a read of OBUF or FBUF does. -/
def Obligations.HostReadsChangeNothing : Prop :=
  ∀ (s t : State) (addr width : Nat) (v : Word), busRead addr width s = .ok (v, t) →
    t = { s with anyBits := t.anyBits } ∧
    (addr < 0x200000 → t = s ∧ ∀ w u, busRead addr width t = .ok (w, u) → w = v)

/-- 20_memory.md R68, R70; 10_state.md R39, R40: what a host write leaves unchanged, every byte of memory outside the written
IBUF word among it. -/
def Obligations.HostWriteFrame : Prop :=
  ∀ (s t : State) (addr width : Nat) (v : Word), busWrite addr width v s = .ok t →
    (∀ a, ¬ (0x100000 ≤ addr ∧ addr ≤ a ∧ a < addr + 4) → t.mem.read a = s.mem.read a) ∧
    SameOutput s t ∧ SameBsc s t ∧ SameGeParams s t ∧ t.geState = s.geState ∧ t.hamCnt = s.hamCnt ∧
    SameEnvironment s t ∧ t.entropy = s.entropy ∧
    (addr ≠ 0x000 → t.busy = s.busy ∧ t.done = s.done ∧ t.err = s.err ∧ t.pending = s.pending) ∧
    (addr ≠ 0x008 → t.inLen = s.inLen) ∧ (addr ≠ 0x014 → t.tbDepth = s.tbDepth) ∧
    (addr ≠ 0x020 → t.param0 = s.param0) ∧ (addr ≠ 0x024 → t.param1 = s.param1) ∧
    (addr ≠ 0x028 → t.param2 = s.param2) ∧ (addr ≠ 0x02C → t.param3 = s.param3)

/-! ### The input of a command and its validation -/

/-- 30_encoding.md R93 with 20_memory.md R62, 10_state.md R38: the input is IBUF[0:IN_LEN], bit i being bit 31-(i mod 32) of
word i div 32; it is missing exactly where a word it needs is unwritten. -/
def Obligations.InputIsTheFirstBitsOfIbuf : Prop :=
  ∀ s : State,
    (∀ b, s.input = some b ↔ b.length = s.inLen.toNat ∧
      ∀ i < s.inLen.toNat, ∃ w, s.mem.readWord (0x100000 + 4 * (i / 32)) = some w ∧
        b[i]? = some (w.getLsbD (31 - i % 32))) ∧
    (s.input = none ↔ 0 < s.inLen.toNat ∧
      ∃ k ≤ (s.inLen.toNat - 1) / 32, s.mem.readWord (0x100000 + 4 * k) = none)

/-- 30_encoding.md R97: each check, that it is made before the later ones and before the input is read (the outcome does not
depend on IBUF), and that no command ends with an error unless one of its checks fails. -/
def Obligations.ChecksAreMadeInOrder : Prop :=
  ∀ s : State,
    (∀ w, commandWordWf w = false → completeWord w s = .next (endedWith s .illegalCommand)) ∧
    (∀ i, ReadsInput i → s.cfg.ibufBits < s.inLen.toNat → exec i s = .next (endedWith s .capacityExceeded)) ∧
    (s.inLen.toNat ≤ s.cfg.ibufBits →
      (s.bscValid = false → exec .bscTx s = .next (endedWith s .notConfigured)) ∧
      (s.geValid = false → exec .geTx s = .next (endedWith s .notConfigured)) ∧
      (s.inLen.toNat ≠ 4 → exec .hamEncBlk s = .next (endedWith s .invalidBlockSize)) ∧
      (s.inLen.toNat ≠ 7 → exec .hamDecBlk s = .next (endedWith s .invalidBlockSize)) ∧
      (s.inLen.toNat % 4 ≠ 0 → exec .hamEncSeq s = .next (endedWith s .lengthError)) ∧
      (s.inLen.toNat % 7 ≠ 0 → exec .hamDecSeq s = .next (endedWith s .lengthError)) ∧
      (s.inLen.toNat % 2 ≠ 0 → exec .vitDec s = .next (endedWith s .invalidLength))) ∧
    (2 ^ s.cfg.probW < s.param0.toNat → exec .bscCfg s = .next (endedWith s .invalidChannelParams)) ∧
    (2 ^ s.cfg.probW < s.param0.toNat ∨ 2 ^ s.cfg.probW < s.param1.toNat ∨ 2 ^ s.cfg.probW < s.param2.toNat ∨
        2 ^ s.cfg.probW < s.param3.toNat → exec .geCfg s = .next (endedWith s .invalidChannelParams)) ∧
    (∀ i t, exec i s = .next t → t.err ≠ .none →
      (ReadsInput i ∧ s.cfg.ibufBits < s.inLen.toNat) ∨ (i = .bscTx ∧ s.bscValid = false) ∨
      (i = .geTx ∧ s.geValid = false) ∨ (i = .hamEncBlk ∧ s.inLen.toNat ≠ 4) ∨ (i = .hamDecBlk ∧ s.inLen.toNat ≠ 7) ∨
      (i = .hamEncSeq ∧ s.inLen.toNat % 4 ≠ 0) ∨ (i = .hamDecSeq ∧ s.inLen.toNat % 7 ≠ 0) ∨
      (i = .vitDec ∧ s.inLen.toNat % 2 ≠ 0) ∨ (i = .bscCfg ∧ 2 ^ s.cfg.probW < s.param0.toNat) ∨
      (i = .geCfg ∧ (2 ^ s.cfg.probW < s.param0.toNat ∨ 2 ^ s.cfg.probW < s.param1.toNat ∨
        2 ^ s.cfg.probW < s.param2.toNat ∨ 2 ^ s.cfg.probW < s.param3.toNat)))

/-- 30_encoding.md R98: a command that ends with an error changes nothing but STATUS and PENDING, takes no draw, and does not
look at IBUF: with any other contents of IBUF it ends the same way. -/
def Obligations.FailedCommandChangesOnlyStatus : Prop :=
  ∀ (w : Word) (s t : State), completeWord w s = .next t → t.err ≠ .none →
    t = { s with err := t.err, busy := false, done := true, pending := none } ∧
    ∀ m : Memory, completeWord w { s with mem := m } = .next { t with mem := m }

/-- 30_encoding.md R93, 60_exceptions.md R233, R241: a command faults only with UninitializedInput, only if it reads input and
a word it needs is unwritten; and then it does fault, unless a check ends it first. No command is refused. -/
def Obligations.CommandFaultsOnlyOnUnwrittenInput : Prop :=
  ∀ (i : Instr) (s : State),
    (∀ f, exec i s = .fault f → f = .uninitializedInput ∧ ReadsInput i ∧ 0 < s.inLen.toNat ∧
      s.inLen.toNat ≤ s.cfg.ibufBits ∧
      ∃ k ≤ (s.inLen.toNat - 1) / 32, s.mem.readWord (0x100000 + 4 * k) = none) ∧
    (∀ r, exec i s ≠ .refused r) ∧
    (∀ k, ReadsInput i → 0 < s.inLen.toNat → k ≤ (s.inLen.toNat - 1) / 32 →
      s.mem.readWord (0x100000 + 4 * k) = none →
      exec i s = .fault .uninitializedInput ∨ ∃ e, e ≠ .none ∧ exec i s = .next (endedWith s e))

/-- 60_exceptions.md R240, R241, 30_encoding.md R93: a pending word completes, legal or not, unless it is a command that reads
input, IN_LEN is not 0 and a word of the input is unwritten. That the core moves where no turn is forced is the model's choice
(log entry 2). -/
def Obligations.WrittenInputNeverFaults : Prop :=
  ∀ (s : State) (w : Word), s.schedule = [] ∨ s.schedule.head? = some .core → s.pending = some w →
    (∀ i, decode w = .ok i → ReadsInput i → 0 < s.inLen.toNat →
      ∀ k ≤ (s.inLen.toNat - 1) / 32, s.mem.readWord (0x100000 + 4 * k) ≠ none) → SafeStep s

/-! ### Hamming commands -/

/-- 41_hamming.md R120 with R121: HAM_ENC_BLK of a 4-bit block, and its errors. -/
def Obligations.HamEncBlkEncodesABlock : Prop :=
  encode .hamEncBlk = 0x00000001#32 ∧ ∀ s : State,
    (s.cfg.ibufBits < s.inLen.toNat → exec .hamEncBlk s = .next (endedWith s .capacityExceeded)) ∧
    (s.inLen.toNat ≤ s.cfg.ibufBits → s.inLen.toNat ≠ 4 → exec .hamEncBlk s = .next (endedWith s .invalidBlockSize)) ∧
    ∀ d0 d1 d2 d3 : Bit, s.inLen = 4#32 → 4 ≤ s.cfg.ibufBits → s.input = some [d0, d1, d2, d3] →
      exec .hamEncBlk s = .next { endedWith s .none with
        out := [d0 ^^ d1 ^^ d3, d0 ^^ d2 ^^ d3, d0, d1 ^^ d2 ^^ d3, d1, d2, d3]
        flags := [] }

/-- 41_hamming.md R124 with R122: HAM_DEC_BLK of a 7-bit word, its flag and the counter, and its errors. -/
def Obligations.HamDecBlkDecodesABlock : Prop :=
  encode .hamDecBlk = 0x00000002#32 ∧ ∀ s : State,
    (s.cfg.ibufBits < s.inLen.toNat → exec .hamDecBlk s = .next (endedWith s .capacityExceeded)) ∧
    (s.inLen.toNat ≤ s.cfg.ibufBits → s.inLen.toNat ≠ 7 → exec .hamDecBlk s = .next (endedWith s .invalidBlockSize)) ∧
    ∀ (c1 c2 c3 c4 c5 c6 c7 : Bit) (n : Nat), s.inLen = 7#32 → 7 ≤ s.cfg.ibufBits →
      s.input = some [c1, c2, c3, c4, c5, c6, c7] →
      n = (c1 ^^ (c3 ^^ c5 ^^ c7)).toNat * 1 + (c2 ^^ (c3 ^^ c6 ^^ c7)).toNat * 2 +
        (c4 ^^ (c5 ^^ c6 ^^ c7)).toNat * 4 →
      exec .hamDecBlk s = .next { endedWith s .none with
        out := [c3 ^^ decide (n = 3), c5 ^^ decide (n = 5), c6 ^^ decide (n = 6), c7 ^^ decide (n = 7)]
        flags := [decide (n ≠ 0)]
        hamCnt := if n = 0 then s.hamCnt else s.hamCnt + 1#32 }

/-- 41_hamming.md R126: HAM_ENC_SEQ gives the codeword of each 4-bit group, in order; and its errors. -/
def Obligations.HamEncSeqEncodesEveryGroup : Prop :=
  encode .hamEncSeq = 0x00000003#32 ∧ ∀ s : State,
    (s.cfg.ibufBits < s.inLen.toNat → exec .hamEncSeq s = .next (endedWith s .capacityExceeded)) ∧
    (s.inLen.toNat ≤ s.cfg.ibufBits → s.inLen.toNat % 4 ≠ 0 → exec .hamEncSeq s = .next (endedWith s .lengthError)) ∧
    ∀ b : Bits, s.inLen.toNat ≤ s.cfg.ibufBits → s.inLen.toNat % 4 = 0 → s.input = some b →
      ∃ o, exec .hamEncSeq s = .next { endedWith s .none with out := o, flags := [] } ∧
        o.length = 7 * (s.inLen.toNat / 4) ∧
        ∀ g < s.inLen.toNat / 4, block o 7 g = henc (block b 4 g)

/-- 41_hamming.md R127: HAM_DEC_SEQ decodes each 7-bit block on its own, flags it where it was corrected, and adds the number
of corrected blocks to HAM_CNT modulo 2^32; and its errors. -/
def Obligations.HamDecSeqDecodesEveryBlock : Prop :=
  encode .hamDecSeq = 0x00000004#32 ∧ ∀ s : State,
    (s.cfg.ibufBits < s.inLen.toNat → exec .hamDecSeq s = .next (endedWith s .capacityExceeded)) ∧
    (s.inLen.toNat ≤ s.cfg.ibufBits → s.inLen.toNat % 7 ≠ 0 → exec .hamDecSeq s = .next (endedWith s .lengthError)) ∧
    ∀ c : Bits, s.inLen.toNat ≤ s.cfg.ibufBits → s.inLen.toNat % 7 = 0 → s.input = some c →
      ∃ o f, exec .hamDecSeq s = .next { endedWith s .none with
          out := o
          flags := f
          hamCnt := s.hamCnt + BitVec.ofNat 32 (f.count true) } ∧
        o.length = 4 * (s.inLen.toNat / 7) ∧ f.length = s.inLen.toNat / 7 ∧
        ∀ g < s.inLen.toNat / 7, block o 4 g = (hdec (block c 7 g)).1 ∧
          f[g]? = some (decide ((hdec (block c 7 g)).2 ≠ 0))

/-- 41_hamming.md R128: HAM_CNT_CLR clears the counter and writes nothing else but STATUS, whatever IN_LEN and IBUF hold. -/
def Obligations.HamCntClrClearsTheCounter : Prop :=
  encode .hamCntClr = 0x00000005#32 ∧
    ∀ s : State, exec .hamCntClr s = .next { endedWith s .none with hamCnt := 0#32 }

/-- 41_hamming.md R123: what the decoder does with no, one and two errors in a codeword, and the word that is no codeword. -/
def Obligations.HammingDecoderProperties : Prop :=
  (∀ d0 d1 d2 d3 : Bit, hdec (henc [d0, d1, d2, d3]) = ([d0, d1, d2, d3], 0) ∧
    (∀ j ∈ [1, 2, 3, 4, 5, 6, 7],
      hdec (flipPosition j (henc [d0, d1, d2, d3])) = ([d0, d1, d2, d3], j) ∧
      ∀ i ∈ [1, 2, 3, 4, 5, 6, 7], i ≠ j →
        (hdec (flipPosition i (flipPosition j (henc [d0, d1, d2, d3])))).2 = i ^^^ j ∧ i ^^^ j ≠ 0 ∧
        (hdec (flipPosition i (flipPosition j (henc [d0, d1, d2, d3])))).1 ≠ [d0, d1, d2, d3])) ∧
  hdec [true, false, false, false, false, false, false] = ([false, false, false, false], 1) ∧
  hdec [true, true, false, false, false, false, false] = ([true, false, false, false], 3)

/-- 41_hamming.md R123, R126, R127: whatever the channel did, as long as it inverted at most one bit of each codeword,
decoding the received codewords returns the input of the encoder, and the flags and the counter tell the inverted ones. -/
def Obligations.HammingCorrectsOneErrorPerBlock : Prop :=
  ∀ (s t s' : State) (b rx : Bits), s.input = some b → exec .hamEncSeq s = .next t → t.err = .none →
    s'.input = some rx → s'.inLen.toNat ≤ s'.cfg.ibufBits → rx.length = t.out.length →
    (∀ g, distance (block t.out 7 g) (block rx 7 g) ≤ 1) →
    ∃ t', exec .hamDecSeq s' = .next t' ∧ t'.err = .none ∧ t'.out = b ∧
      t'.hamCnt = s'.hamCnt + BitVec.ofNat 32 (distance t.out rx) ∧
      t'.flags.length = b.length / 4 ∧
      ∀ g < b.length / 4, t'.flags[g]? = some (decide (distance (block t.out 7 g) (block rx 7 g) = 1))

/-! ### Convolutional code -/

/-- 42_convolutional.md R153: the transition table. -/
def Obligations.TrellisTransitionTable : Prop :=
  ∀ r ∈ [(0#2, false, false, false, 0#2), (0#2, true, true, true, 2#2), (1#2, false, true, true, 0#2),
      (1#2, true, false, false, 2#2), (2#2, false, true, false, 1#2), (2#2, true, false, true, 3#2),
      (3#2, false, false, true, 1#2), (3#2, true, true, false, 3#2)],
    out0 r.1 r.2.1 = r.2.2.1 ∧ out1 r.1 r.2.1 = r.2.2.2.1 ∧ nextState r.1 r.2.1 = r.2.2.2.2

/-- 42_convolutional.md R150: output pair k is the parity of the input bits k, k-1, k-2 and of k, k-2, the bits before the
first being 0; nothing is appended; the only error is CapacityExceeded. -/
def Obligations.ConvEncIsTheGeneratorConvolution : Prop :=
  encode .convEnc = 0x00000006#32 ∧ ∀ s : State,
    (s.cfg.ibufBits < s.inLen.toNat → exec .convEnc s = .next (endedWith s .capacityExceeded)) ∧
    ∀ b : Bits, s.inLen.toNat ≤ s.cfg.ibufBits → s.input = some b →
      ∃ o, exec .convEnc s = .next { endedWith s .none with out := o, flags := [] } ∧
        o.length = 2 * s.inLen.toNat ∧
        ∀ k < s.inLen.toNat,
          o[2 * k]? = some ((false :: false :: b).getD (k + 2) false ^^ (false :: false :: b).getD (k + 1) false ^^
            (false :: false :: b).getD k false) ∧
          o[2 * k + 1]? = some ((false :: false :: b).getD (k + 2) false ^^ (false :: false :: b).getD k false)

/-- 42_convolutional.md R155: add-compare-select at time t+1, from the metrics at time t and the received pair; INF stays INF,
and the lower predecessor wins a tie. -/
def Obligations.AddCompareSelectRule : Prop :=
  ∀ (p : Params) (rx : Bits) (t : Nat) (row row' : PmRow) (r0 r1 : Bit) (s lo hi : TrellisState) (b : Bit)
      (cand : TrellisState → Nat),
    (pathMetricRows p (initialRow p) rx)[t]? = some row → (pathMetricRows p (initialRow p) rx)[t + 1]? = some row' →
    rx[2 * t]? = some r0 → rx[2 * t + 1]? = some r1 →
    lo.toNat = 2 * (s.toNat % 2) → hi.toNat = 2 * (s.toNat % 2) + 1 → b = decide (s.toNat / 2 = 1) →
    (∀ q, cand q = if (row.entry q).metric = p.inf then p.inf
      else (row.entry q).metric + ((r0 ^^ out0 q b).toNat + (r1 ^^ out1 q b).toNat)) →
    row'.entry s =
      if cand hi < cand lo then { metric := cand hi, pred := hi } else { metric := cand lo, pred := lo }

/-- 42_convolutional.md R157: at time t a finite metric is at most 2t, below INF, and exactly the states {0}, {0, 2} and all
four are reachable at t = 0, t = 1 and t ≥ 2. -/
def Obligations.PathMetricsStayBelowInf : Prop :=
  ∀ (p : Params) (rx : Bits) (t : Nat) (row : PmRow), rx.length / 2 ≤ p.tMax →
    (pathMetricRows p (initialRow p) rx)[t]? = some row →
    2 * t ≤ 2 * p.tMax ∧ 2 * p.tMax < p.inf ∧
    ∀ s : TrellisState,
      ((row.entry s).metric = p.inf ∨ (row.entry s).metric ≤ 2 * t) ∧
      ((row.entry s).metric ≠ p.inf ↔ s = 0#2 ∨ (s = 2#2 ∧ 1 ≤ t) ∨ 2 ≤ t)

/-- 42_convolutional.md R158: traceback starts at the smallest state of minimum metric. -/
def Obligations.FinalStateIsTheSmallestMinimum : Prop :=
  ∀ (row : PmRow) (s : TrellisState),
    (row.entry (bestState row)).metric ≤ (row.entry s).metric ∧
    (s.toNat < (bestState row).toNat → (row.entry (bestState row)).metric < (row.entry s).metric)

/-- 42_convolutional.md R160, R163 with R158, R159: VIT_DEC of an even number of bits 2n completes with n bits and no flags,
whatever TB_DEPTH holds; the bits are those of the states st 1 to st n of the traceback, which starts at the selected state of
row n and follows the stored predecessors. -/
def Obligations.VitDecCompletes : Prop :=
  ∀ (s : State) (rx : Bits), s.inLen.toNat ≤ s.cfg.ibufBits → s.inLen.toNat % 2 = 0 → s.input = some rx →
    ∃ o, o.length = s.inLen.toNat / 2 ∧
      (∀ depth : Word, exec .vitDec { s with tbDepth := depth } =
        .next { endedWith { s with tbDepth := depth } .none with out := o, flags := [] }) ∧
      ∃ st : Nat → TrellisState,
        (∃ row, (pathMetricRows s.cfg (initialRow s.cfg) rx)[s.inLen.toNat / 2]? = some row ∧
          st (s.inLen.toNat / 2) = bestState row) ∧
        ∀ t, 1 ≤ t → t ≤ s.inLen.toNat / 2 →
          (∃ row, (pathMetricRows s.cfg (initialRow s.cfg) rx)[t]? = some row ∧ st (t - 1) = (row.entry (st t)).pred) ∧
          o[t - 1]? = some (decide ((st t).toNat / 2 = 1))

/-- 42_convolutional.md R155, R158, R159: the decoded bits are a maximum-likelihood input: no input of that length encodes to a
sequence nearer to the received one. -/
def Obligations.ViterbiDecodesToANearestCodeword : Prop :=
  ∀ (s t : State) (rx : Bits), s.input = some rx → exec .vitDec s = .next t → t.err = .none →
    2 * t.out.length = rx.length ∧
    ∀ b : Bits, 2 * b.length = rx.length →
      distance (convEncode 0#2 t.out) rx ≤ distance (convEncode 0#2 b) rx

/-- 42_convolutional.md R161: the noiseless round trip, for every length the decoder takes. -/
def Obligations.ViterbiInvertsTheEncoder : Prop :=
  ∀ (s t s' : State) (b : Bits), s.input = some b → exec .convEnc s = .next t → t.err = .none →
    s'.input = some t.out → b.length ≤ s'.cfg.tMax →
    ∃ t', exec .vitDec s' = .next t' ∧ t'.err = .none ∧ t'.out = b

/-! ### Channels -/

/-- 43_bsc.md R190: BSC_CFG commits PARAM0 when it is a probability, and else ends with InvalidChannelParams; IN_LEN and
IBUF do not matter and no draw is taken. -/
def Obligations.BscCfgConstructsTheChannel : Prop :=
  encode .bscCfg = 0x00000008#32 ∧ ∀ s : State,
    (s.param0.toNat ≤ 2 ^ s.cfg.probW →
      exec .bscCfg s = .next { endedWith s .none with bscBer := s.param0, bscValid := true }) ∧
    (2 ^ s.cfg.probW < s.param0.toNat → exec .bscCfg s = .next (endedWith s .invalidChannelParams))

/-- 43_bsc.md R192 with R191: one draw per bit, in order; a bit is inverted and flagged exactly where its draw is below
BSC_BER; a draw is free, one the environment queued or a free value of the stream (log entry 3). -/
def Obligations.BscTxFlipsWhereTheDrawHits : Prop :=
  ∀ (s : State) (b : Bits), s.inLen.toNat ≤ s.cfg.ibufBits → s.bscValid = true → s.input = some b →
    ∃ o f, exec .bscTx s = .next { endedWith s .none with
        out := o
        flags := f
        entropy := { queue := s.entropy.queue.drop s.inLen.toNat, taken := s.entropy.taken + s.inLen.toNat } } ∧
      o.length = s.inLen.toNat ∧ f.length = s.inLen.toNat ∧
      ∀ k < s.inLen.toNat, f[k]? = some (decide (drawAt s k < s.bscBer.toNat)) ∧
        o[k]? = some (b.getD k false ^^ decide (drawAt s k < s.bscBer.toNat))

/-- 43_bsc.md R193: the channel at p = 0 and p = 1, and that every output bit is the input bit xor its flag. -/
def Obligations.BscAtZeroAndOne : Prop :=
  ∀ (s t : State) (b : Bits), s.input = some b → exec .bscTx s = .next t → t.err = .none →
    (s.bscBer = 0#32 → t.out = b ∧ t.flags = List.replicate b.length false) ∧
    (s.bscBer.toNat = 2 ^ s.cfg.probW → t.out = b.map not ∧ t.flags = List.replicate b.length true) ∧
    t.out.length = b.length ∧ t.flags.length = b.length ∧
    ∀ k < b.length, t.out[k]? = some (b.getD k false ^^ t.flags.getD k false)

/-- 44_gilbert_elliott.md R210: GE_CFG commits the four parameters and starts in Good, or ends with InvalidChannelParams. -/
def Obligations.GeCfgConstructsTheChannel : Prop :=
  encode .geCfg = 0x0000000A#32 ∧ ∀ s : State,
    (s.param0.toNat ≤ 2 ^ s.cfg.probW ∧ s.param1.toNat ≤ 2 ^ s.cfg.probW ∧ s.param2.toNat ≤ 2 ^ s.cfg.probW ∧
        s.param3.toNat ≤ 2 ^ s.cfg.probW →
      exec .geCfg s = .next { endedWith s .none with
        gePgb := s.param0, gePbg := s.param1, geEg := s.param2, geEb := s.param3, geState := .good, geValid := true }) ∧
    (2 ^ s.cfg.probW < s.param0.toNat ∨ 2 ^ s.cfg.probW < s.param1.toNat ∨ 2 ^ s.cfg.probW < s.param2.toNat ∨
        2 ^ s.cfg.probW < s.param3.toNat → exec .geCfg s = .next (endedWith s .invalidChannelParams))

/-- 44_gilbert_elliott.md R212 with R211, R213: two draws per bit, the transition draw first; the error decision is made in
the post-transition state; the final state is written back. `g k` is the channel state before bit k. -/
def Obligations.GeTxFollowsTheChannelStates : Prop :=
  ∀ (s : State) (b : Bits) (g : Nat → Channel), s.inLen.toNat ≤ s.cfg.ibufBits → s.geValid = true →
    s.input = some b → g 0 = s.geState →
    (∀ k, g (k + 1) = match g k with
      | .good => if drawAt s (2 * k) < s.gePgb.toNat then .bad else .good
      | .bad => if drawAt s (2 * k) < s.gePbg.toNat then .good else .bad) →
    ∃ o f, exec .geTx s = .next { endedWith s .none with
        out := o
        flags := f
        geState := g s.inLen.toNat
        entropy :=
          { queue := s.entropy.queue.drop (2 * s.inLen.toNat), taken := s.entropy.taken + 2 * s.inLen.toNat } } ∧
      o.length = s.inLen.toNat ∧ f.length = s.inLen.toNat ∧
      ∀ k < s.inLen.toNat,
        f[k]? = some (decide (drawAt s (2 * k + 1) <
          (if g (k + 1) = .good then s.geEg.toNat else s.geEb.toNat))) ∧
        o[k]? = some (b.getD k false ^^ f.getD k false)

/-- 44_gilbert_elliott.md R214: (a) parameters, state, input and draws fix the result; (b) a transmission may be split in two
when the second takes the draws that follow the first's (R212, 60_exceptions.md R246). The draws, what it is to follow and the
last clause speak of the model's own entropy port (log entry 3, DESIGN CHOICE). -/
def Obligations.GilbertElliottIsDeterministicAndSplits : Prop :=
  (∀ (s s' t t' : State), s.input = s'.input → SameGeParams s s' → s'.geState = s.geState →
    s'.cfg.probW = s.cfg.probW → (∀ k, drawAt s' k = drawAt s k) →
    exec .geTx s = .next t → exec .geTx s' = .next t' → t.err = .none → t'.err = .none →
    t'.out = t.out ∧ t'.flags = t.flags ∧ t'.geState = t.geState) ∧
  (∀ (s s₁ s₂ t t₁ t₂ : State) (x y : Bits), s.input = some (x ++ y) → s₁.input = some x → s₂.input = some y →
    SameGeParams s s₁ → SameGeParams s s₂ → s₁.cfg.probW = s.cfg.probW → s₂.cfg.probW = s.cfg.probW →
    s₁.geState = s.geState → s₁.entropy = s.entropy →
    exec .geTx s = .next t → exec .geTx s₁ = .next t₁ → s₂.geState = t₁.geState → s₂.entropy = t₁.entropy →
    exec .geTx s₂ = .next t₂ → t.err = .none → t₁.err = .none → t₂.err = .none →
    t.out = t₁.out ++ t₂.out ∧ t.flags = t₁.flags ++ t₂.flags ∧ t.geState = t₂.geState ∧
      t.entropy = t₂.entropy)

/-- 60_exceptions.md R246: draws are taken only by a BSC_TX that passes its checks, exactly IN_LEN, and by a GE_TX that passes
its checks, exactly twice IN_LEN; no other step of any agent takes one. -/
def Obligations.DrawsAreTakenOnlyByTransmits : Prop :=
  ∀ s t : State, step s = .next t →
    (Completes s .bscTx → t.err = .none → t.entropy =
      { queue := s.entropy.queue.drop s.inLen.toNat, taken := s.entropy.taken + s.inLen.toNat }) ∧
    (Completes s .geTx → t.err = .none → t.entropy =
      { queue := s.entropy.queue.drop (2 * s.inLen.toNat), taken := s.entropy.taken + 2 * s.inLen.toNat }) ∧
    (¬ Completes s .bscTx ∧ ¬ Completes s .geTx ∨ t.err ≠ .none → t.entropy = s.entropy)

/-! ### Frames -/

/-- 30_encoding.md R98, R99; 41_hamming.md R120, R126; 42_convolutional.md R150, R160: HAM_ENC_BLK, HAM_ENC_SEQ, CONV_ENC and
VIT_DEC write OBUF, FBUF and STATUS, and nothing else. -/
def Obligations.EncodersAndViterbiFrame : Prop :=
  ∀ (i : Instr) (s t : State), i ∈ [Instr.hamEncBlk, .hamEncSeq, .convEnc, .vitDec] → exec i s = .next t →
    SameMemory s t ∧ SameHostRegs s t ∧ SameBsc s t ∧ SameGeParams s t ∧ t.geState = s.geState ∧
    t.hamCnt = s.hamCnt ∧ SameEnvironment s t ∧ t.entropy = s.entropy ∧ Completed t ∧
    (t.err ≠ .none → SameOutput s t)

/-- 30_encoding.md R98, R99; 41_hamming.md R124, R127: HAM_DEC_BLK and HAM_DEC_SEQ write OBUF, FBUF, HAM_CNT and STATUS, and
nothing else. -/
def Obligations.HammingDecodersFrame : Prop :=
  ∀ (i : Instr) (s t : State), i ∈ [Instr.hamDecBlk, .hamDecSeq] → exec i s = .next t →
    SameMemory s t ∧ SameHostRegs s t ∧ SameBsc s t ∧ SameGeParams s t ∧ t.geState = s.geState ∧
    SameEnvironment s t ∧ t.entropy = s.entropy ∧ Completed t ∧
    (t.err ≠ .none → SameOutput s t ∧ t.hamCnt = s.hamCnt)

/-- 30_encoding.md R99; 41_hamming.md R128; 43_bsc.md R190; 44_gilbert_elliott.md R210: HAM_CNT_CLR writes HAM_CNT, BSC_CFG the
BSC registers, GE_CFG the Gilbert-Elliott registers, each with STATUS, and nothing else. -/
def Obligations.SystemCommandsFrame : Prop :=
  ∀ (i : Instr) (s t : State), i ∈ [Instr.hamCntClr, .bscCfg, .geCfg] → exec i s = .next t →
    SameMemory s t ∧ SameHostRegs s t ∧ SameOutput s t ∧ SameEnvironment s t ∧ t.entropy = s.entropy ∧ Completed t ∧
    (i ≠ .hamCntClr → t.hamCnt = s.hamCnt) ∧
    (i ≠ .bscCfg ∨ t.err ≠ .none → SameBsc s t) ∧
    (i ≠ .geCfg ∨ t.err ≠ .none → SameGeParams s t ∧ t.geState = s.geState)

/-- 30_encoding.md R98, R99; 43_bsc.md R192; 44_gilbert_elliott.md R212: BSC_TX and GE_TX write OBUF, FBUF, STATUS and, for
GE_TX, GE_STATE, move the entropy stream, and write nothing else. -/
def Obligations.TransmitsFrame : Prop :=
  ∀ (i : Instr) (s t : State), i ∈ [Instr.bscTx, .geTx] → exec i s = .next t →
    SameMemory s t ∧ SameHostRegs s t ∧ SameBsc s t ∧ SameGeParams s t ∧ t.hamCnt = s.hamCnt ∧
    SameEnvironment s t ∧ Completed t ∧ (i = .bscTx → t.geState = s.geState) ∧
    (t.err ≠ .none → SameOutput s t ∧ t.geState = s.geState ∧ t.entropy = s.entropy)

/-! ### Whole-machine rules -/

/-- 70_reset_and_hazards.md R262: GE_STATE, HAM_CNT, the channel registers and the valid flags change only by their own
commands and by hardware reset; no other step of any agent changes them. -/
def Obligations.NoImplicitReset : Prop :=
  ∀ s t : State, step s = .next t → ¬ Resets s →
    (t.geState ≠ s.geState → Completes s .geCfg ∨ Completes s .geTx) ∧
    (t.hamCnt ≠ s.hamCnt → Completes s .hamDecBlk ∨ Completes s .hamDecSeq ∨ Completes s .hamCntClr) ∧
    (¬ SameBsc s t → Completes s .bscCfg) ∧
    (¬ SameGeParams s t → Completes s .geCfg)

/-- 20_memory.md R73, 10_state.md R38, R39, R40: only the host writes IBUF, its own registers and the PENDING latch's word;
only a completing output command writes OBUF and FBUF; no step changes the parameters. -/
def Obligations.WhoWritesWhat : Prop :=
  ∀ s t : State, step s = .next t → ¬ Resets s →
    (∀ i, Completes s i → SameMemory s t ∧ SameHostRegs s t) ∧
    (¬ SameOutput s t → ∃ i, Completes s i ∧ i ≠ .hamCntClr ∧ i ≠ .bscCfg ∧ i ≠ .geCfg) ∧
    t.cfg = s.cfg ∧
    (∀ w, s.pending = none → t.pending = some w → t.busy = true ∧ t.done = false ∧ t.err = .none)

/-- 70_reset_and_hazards.md R260 with 10_state.md R50: hardware reset, at any time and after a model fault too. The host, the
queued inputs and the parameters are not the core's state and stay, and a faulting step uses up its turn (log entry 13). -/
def Obligations.HardwareResetAtAnyTime : Prop :=
  (∀ (s : State) (rest : List Turn), s.schedule = .reset :: rest →
    step s = .next { State.resetWith s.cfg with
      entropy := s.entropy, anyBits := s.anyBits, host := s.host, schedule := rest,
      refills := s.refills }) ∧
  (∀ (s : State) (f : Fault), step s = .fault f →
    resetAfter s (step s) = { State.resetWith s.cfg with
      entropy := s.entropy, anyBits := s.anyBits, host := s.host,
      schedule := s.afterTurn.schedule, refills := s.afterTurn.refills })

/-- 10_state.md R50: the reset table, as the host reads it. -/
def Obligations.ResetValues : Prop :=
  (∀ r ∈ [0x004, 0x008, 0x00C, 0x010, 0x014, 0x018, 0x01C, 0x020, 0x024, 0x028, 0x02C, 0x030, 0x034, 0x038, 0x03C, 0x040],
    busRead r 4 State.reset = .ok (0#32, State.reset)) ∧
  busRead 0x044 4 State.reset = .ok (0x46454301#32, State.reset) ∧
  busRead 0x048 4 State.reset = .ok (4096#32, State.reset) ∧ busRead 0x04C 4 State.reset = .ok (31#32, State.reset) ∧
  (∀ k, State.reset.ibufWord k = none) ∧ State.reset.out = [] ∧ State.reset.flags = [] ∧
  State.reset.geState = .good ∧ State.reset.pending = none

/-- The invariants hold at reset, for every choice of parameters (10_state.md R50). -/
def Obligations.ResetMeetsTheInvariants : Prop :=
  ∀ p : Params, StatusInv (State.resetWith p) ∧ MemoryInv (State.resetWith p) ∧ ChannelInv (State.resetWith p) ∧
    BufferInv (State.resetWith p)

/-- 10_state.md R25, R46; 30_encoding.md R95, R96: every step keeps BUSY equal to "a word is pending", and while BUSY the
DONE and ERR fields clear. -/
def Obligations.StepKeepsStatusInvariant : Prop :=
  ∀ s t : State, StatusInv s → step s = .next t → StatusInv t

/-- 10_state.md R38, 20_memory.md R65, R66: every step keeps IBUF's bytes in canonical form, inside the window, and written in
whole words. -/
def Obligations.StepKeepsMemoryInvariant : Prop :=
  ∀ s t : State, MemoryInv s → step s = .next t → MemoryInv t

/-- 10_state.md R36, R37, R44; 30_encoding.md R92: every step keeps the live channel parameters probabilities, and an
unconfigured channel at its reset values. -/
def Obligations.StepKeepsChannelInvariant : Prop :=
  ∀ s t : State, ChannelInv s → step s = .next t → ChannelInv t

/-- 10_state.md R27, R28; 30_encoding.md R99: every step keeps OBUF's and FBUF's contents within their capacity. -/
def Obligations.StepKeepsBufferInvariant : Prop :=
  ∀ s t : State, BufferInv s → step s = .next t → BufferInv t

/-! ### Host conventions -/

/-- 20_memory.md R63 with R62: the host's byte convention: big-endian expansion in input order, four bytes packed into a word,
the inverse, and its LengthError. -/
def Obligations.HostByteConvention : Prop :=
  (∀ (bytes : List Byte) (k j : Nat) (b : Byte), bytes[k]? = some b → j < 8 →
    (bytesToBits bytes)[8 * k + j]? = some (b.getLsbD (7 - j))) ∧
  (∀ b0 b1 b2 b3 : Byte, packWord (bytesToBits [b0, b1, b2, b3]) 0 = b0 ++ b1 ++ b2 ++ b3) ∧
  (∀ bytes : List Byte, bitsToBytes (bytesToBits bytes) = some bytes) ∧
  (∀ b : Bits, bitsToBytes b = none ↔ b.length % 8 ≠ 0)
end

