-- ==== Sys2Proof/Laws/State.lean ====
section
/-! SUPPORT. For each named update of State, what every field of the updated state is. -/

namespace Sys2Proof.Machine

/-! ### issue -/

@[simp] theorem State.issue_busy (s : State) (v : Word) : (s.issue v).busy = true := rfl
@[simp] theorem State.issue_done (s : State) (v : Word) : (s.issue v).done = false := rfl
@[simp] theorem State.issue_bscValid (s : State) (v : Word) : (s.issue v).bscValid = s.bscValid := rfl
@[simp] theorem State.issue_geValid (s : State) (v : Word) : (s.issue v).geValid = s.geValid := rfl
@[simp] theorem State.issue_err (s : State) (v : Word) : (s.issue v).err = .none := rfl
@[simp] theorem State.issue_inLen (s : State) (v : Word) : (s.issue v).inLen = s.inLen := rfl
@[simp] theorem State.issue_tbDepth (s : State) (v : Word) : (s.issue v).tbDepth = s.tbDepth := rfl
@[simp] theorem State.issue_hamCnt (s : State) (v : Word) : (s.issue v).hamCnt = s.hamCnt := rfl
@[simp] theorem State.issue_param0 (s : State) (v : Word) : (s.issue v).param0 = s.param0 := rfl
@[simp] theorem State.issue_param1 (s : State) (v : Word) : (s.issue v).param1 = s.param1 := rfl
@[simp] theorem State.issue_param2 (s : State) (v : Word) : (s.issue v).param2 = s.param2 := rfl
@[simp] theorem State.issue_param3 (s : State) (v : Word) : (s.issue v).param3 = s.param3 := rfl
@[simp] theorem State.issue_bscBer (s : State) (v : Word) : (s.issue v).bscBer = s.bscBer := rfl
@[simp] theorem State.issue_gePgb (s : State) (v : Word) : (s.issue v).gePgb = s.gePgb := rfl
@[simp] theorem State.issue_gePbg (s : State) (v : Word) : (s.issue v).gePbg = s.gePbg := rfl
@[simp] theorem State.issue_geEg (s : State) (v : Word) : (s.issue v).geEg = s.geEg := rfl
@[simp] theorem State.issue_geEb (s : State) (v : Word) : (s.issue v).geEb = s.geEb := rfl
@[simp] theorem State.issue_geState (s : State) (v : Word) : (s.issue v).geState = s.geState := rfl
@[simp] theorem State.issue_mem (s : State) (v : Word) : (s.issue v).mem = s.mem := rfl
@[simp] theorem State.issue_out (s : State) (v : Word) : (s.issue v).out = s.out := rfl
@[simp] theorem State.issue_flags (s : State) (v : Word) : (s.issue v).flags = s.flags := rfl
@[simp] theorem State.issue_pending (s : State) (v : Word) : (s.issue v).pending = some v := rfl
@[simp] theorem State.issue_cfg (s : State) (v : Word) : (s.issue v).cfg = s.cfg := rfl
@[simp] theorem State.issue_entropy (s : State) (v : Word) : (s.issue v).entropy = s.entropy := rfl
@[simp] theorem State.issue_anyBits (s : State) (v : Word) : (s.issue v).anyBits = s.anyBits := rfl
@[simp] theorem State.issue_host (s : State) (v : Word) : (s.issue v).host = s.host := rfl
@[simp] theorem State.issue_schedule (s : State) (v : Word) : (s.issue v).schedule = s.schedule := rfl
@[simp] theorem State.issue_refills (s : State) (v : Word) : (s.issue v).refills = s.refills := rfl

/-! ### finish -/

@[simp] theorem State.finish_busy (s : State) (e : ErrCode) : (s.finish e).busy = false := rfl
@[simp] theorem State.finish_done (s : State) (e : ErrCode) : (s.finish e).done = true := rfl
@[simp] theorem State.finish_bscValid (s : State) (e : ErrCode) : (s.finish e).bscValid = s.bscValid := rfl
@[simp] theorem State.finish_geValid (s : State) (e : ErrCode) : (s.finish e).geValid = s.geValid := rfl
@[simp] theorem State.finish_err (s : State) (e : ErrCode) : (s.finish e).err = e := rfl
@[simp] theorem State.finish_inLen (s : State) (e : ErrCode) : (s.finish e).inLen = s.inLen := rfl
@[simp] theorem State.finish_tbDepth (s : State) (e : ErrCode) : (s.finish e).tbDepth = s.tbDepth := rfl
@[simp] theorem State.finish_hamCnt (s : State) (e : ErrCode) : (s.finish e).hamCnt = s.hamCnt := rfl
@[simp] theorem State.finish_param0 (s : State) (e : ErrCode) : (s.finish e).param0 = s.param0 := rfl
@[simp] theorem State.finish_param1 (s : State) (e : ErrCode) : (s.finish e).param1 = s.param1 := rfl
@[simp] theorem State.finish_param2 (s : State) (e : ErrCode) : (s.finish e).param2 = s.param2 := rfl
@[simp] theorem State.finish_param3 (s : State) (e : ErrCode) : (s.finish e).param3 = s.param3 := rfl
@[simp] theorem State.finish_bscBer (s : State) (e : ErrCode) : (s.finish e).bscBer = s.bscBer := rfl
@[simp] theorem State.finish_gePgb (s : State) (e : ErrCode) : (s.finish e).gePgb = s.gePgb := rfl
@[simp] theorem State.finish_gePbg (s : State) (e : ErrCode) : (s.finish e).gePbg = s.gePbg := rfl
@[simp] theorem State.finish_geEg (s : State) (e : ErrCode) : (s.finish e).geEg = s.geEg := rfl
@[simp] theorem State.finish_geEb (s : State) (e : ErrCode) : (s.finish e).geEb = s.geEb := rfl
@[simp] theorem State.finish_geState (s : State) (e : ErrCode) : (s.finish e).geState = s.geState := rfl
@[simp] theorem State.finish_mem (s : State) (e : ErrCode) : (s.finish e).mem = s.mem := rfl
@[simp] theorem State.finish_out (s : State) (e : ErrCode) : (s.finish e).out = s.out := rfl
@[simp] theorem State.finish_flags (s : State) (e : ErrCode) : (s.finish e).flags = s.flags := rfl
@[simp] theorem State.finish_pending (s : State) (e : ErrCode) : (s.finish e).pending = none := rfl
@[simp] theorem State.finish_cfg (s : State) (e : ErrCode) : (s.finish e).cfg = s.cfg := rfl
@[simp] theorem State.finish_entropy (s : State) (e : ErrCode) : (s.finish e).entropy = s.entropy := rfl
@[simp] theorem State.finish_anyBits (s : State) (e : ErrCode) : (s.finish e).anyBits = s.anyBits := rfl
@[simp] theorem State.finish_host (s : State) (e : ErrCode) : (s.finish e).host = s.host := rfl
@[simp] theorem State.finish_schedule (s : State) (e : ErrCode) : (s.finish e).schedule = s.schedule := rfl
@[simp] theorem State.finish_refills (s : State) (e : ErrCode) : (s.finish e).refills = s.refills := rfl

/-! ### setOutput -/

@[simp] theorem State.setOutput_busy (s : State) (o f : Bits) : (s.setOutput o f).busy = s.busy := rfl
@[simp] theorem State.setOutput_done (s : State) (o f : Bits) : (s.setOutput o f).done = s.done := rfl
@[simp] theorem State.setOutput_bscValid (s : State) (o f : Bits) : (s.setOutput o f).bscValid = s.bscValid := rfl
@[simp] theorem State.setOutput_geValid (s : State) (o f : Bits) : (s.setOutput o f).geValid = s.geValid := rfl
@[simp] theorem State.setOutput_err (s : State) (o f : Bits) : (s.setOutput o f).err = s.err := rfl
@[simp] theorem State.setOutput_inLen (s : State) (o f : Bits) : (s.setOutput o f).inLen = s.inLen := rfl
@[simp] theorem State.setOutput_tbDepth (s : State) (o f : Bits) : (s.setOutput o f).tbDepth = s.tbDepth := rfl
@[simp] theorem State.setOutput_hamCnt (s : State) (o f : Bits) : (s.setOutput o f).hamCnt = s.hamCnt := rfl
@[simp] theorem State.setOutput_param0 (s : State) (o f : Bits) : (s.setOutput o f).param0 = s.param0 := rfl
@[simp] theorem State.setOutput_param1 (s : State) (o f : Bits) : (s.setOutput o f).param1 = s.param1 := rfl
@[simp] theorem State.setOutput_param2 (s : State) (o f : Bits) : (s.setOutput o f).param2 = s.param2 := rfl
@[simp] theorem State.setOutput_param3 (s : State) (o f : Bits) : (s.setOutput o f).param3 = s.param3 := rfl
@[simp] theorem State.setOutput_bscBer (s : State) (o f : Bits) : (s.setOutput o f).bscBer = s.bscBer := rfl
@[simp] theorem State.setOutput_gePgb (s : State) (o f : Bits) : (s.setOutput o f).gePgb = s.gePgb := rfl
@[simp] theorem State.setOutput_gePbg (s : State) (o f : Bits) : (s.setOutput o f).gePbg = s.gePbg := rfl
@[simp] theorem State.setOutput_geEg (s : State) (o f : Bits) : (s.setOutput o f).geEg = s.geEg := rfl
@[simp] theorem State.setOutput_geEb (s : State) (o f : Bits) : (s.setOutput o f).geEb = s.geEb := rfl
@[simp] theorem State.setOutput_geState (s : State) (o f : Bits) : (s.setOutput o f).geState = s.geState := rfl
@[simp] theorem State.setOutput_mem (s : State) (o f : Bits) : (s.setOutput o f).mem = s.mem := rfl
@[simp] theorem State.setOutput_out (s : State) (o f : Bits) : (s.setOutput o f).out = o := rfl
@[simp] theorem State.setOutput_flags (s : State) (o f : Bits) : (s.setOutput o f).flags = f := rfl
@[simp] theorem State.setOutput_pending (s : State) (o f : Bits) : (s.setOutput o f).pending = s.pending := rfl
@[simp] theorem State.setOutput_cfg (s : State) (o f : Bits) : (s.setOutput o f).cfg = s.cfg := rfl
@[simp] theorem State.setOutput_entropy (s : State) (o f : Bits) : (s.setOutput o f).entropy = s.entropy := rfl
@[simp] theorem State.setOutput_anyBits (s : State) (o f : Bits) : (s.setOutput o f).anyBits = s.anyBits := rfl
@[simp] theorem State.setOutput_host (s : State) (o f : Bits) : (s.setOutput o f).host = s.host := rfl
@[simp] theorem State.setOutput_schedule (s : State) (o f : Bits) : (s.setOutput o f).schedule = s.schedule := rfl
@[simp] theorem State.setOutput_refills (s : State) (o f : Bits) : (s.setOutput o f).refills = s.refills := rfl

/-! ### setHamCnt -/

@[simp] theorem State.setHamCnt_busy (s : State) (v : Word) : (s.setHamCnt v).busy = s.busy := rfl
@[simp] theorem State.setHamCnt_done (s : State) (v : Word) : (s.setHamCnt v).done = s.done := rfl
@[simp] theorem State.setHamCnt_bscValid (s : State) (v : Word) : (s.setHamCnt v).bscValid = s.bscValid := rfl
@[simp] theorem State.setHamCnt_geValid (s : State) (v : Word) : (s.setHamCnt v).geValid = s.geValid := rfl
@[simp] theorem State.setHamCnt_err (s : State) (v : Word) : (s.setHamCnt v).err = s.err := rfl
@[simp] theorem State.setHamCnt_inLen (s : State) (v : Word) : (s.setHamCnt v).inLen = s.inLen := rfl
@[simp] theorem State.setHamCnt_tbDepth (s : State) (v : Word) : (s.setHamCnt v).tbDepth = s.tbDepth := rfl
@[simp] theorem State.setHamCnt_hamCnt (s : State) (v : Word) : (s.setHamCnt v).hamCnt = v := rfl
@[simp] theorem State.setHamCnt_param0 (s : State) (v : Word) : (s.setHamCnt v).param0 = s.param0 := rfl
@[simp] theorem State.setHamCnt_param1 (s : State) (v : Word) : (s.setHamCnt v).param1 = s.param1 := rfl
@[simp] theorem State.setHamCnt_param2 (s : State) (v : Word) : (s.setHamCnt v).param2 = s.param2 := rfl
@[simp] theorem State.setHamCnt_param3 (s : State) (v : Word) : (s.setHamCnt v).param3 = s.param3 := rfl
@[simp] theorem State.setHamCnt_bscBer (s : State) (v : Word) : (s.setHamCnt v).bscBer = s.bscBer := rfl
@[simp] theorem State.setHamCnt_gePgb (s : State) (v : Word) : (s.setHamCnt v).gePgb = s.gePgb := rfl
@[simp] theorem State.setHamCnt_gePbg (s : State) (v : Word) : (s.setHamCnt v).gePbg = s.gePbg := rfl
@[simp] theorem State.setHamCnt_geEg (s : State) (v : Word) : (s.setHamCnt v).geEg = s.geEg := rfl
@[simp] theorem State.setHamCnt_geEb (s : State) (v : Word) : (s.setHamCnt v).geEb = s.geEb := rfl
@[simp] theorem State.setHamCnt_geState (s : State) (v : Word) : (s.setHamCnt v).geState = s.geState := rfl
@[simp] theorem State.setHamCnt_mem (s : State) (v : Word) : (s.setHamCnt v).mem = s.mem := rfl
@[simp] theorem State.setHamCnt_out (s : State) (v : Word) : (s.setHamCnt v).out = s.out := rfl
@[simp] theorem State.setHamCnt_flags (s : State) (v : Word) : (s.setHamCnt v).flags = s.flags := rfl
@[simp] theorem State.setHamCnt_pending (s : State) (v : Word) : (s.setHamCnt v).pending = s.pending := rfl
@[simp] theorem State.setHamCnt_cfg (s : State) (v : Word) : (s.setHamCnt v).cfg = s.cfg := rfl
@[simp] theorem State.setHamCnt_entropy (s : State) (v : Word) : (s.setHamCnt v).entropy = s.entropy := rfl
@[simp] theorem State.setHamCnt_anyBits (s : State) (v : Word) : (s.setHamCnt v).anyBits = s.anyBits := rfl
@[simp] theorem State.setHamCnt_host (s : State) (v : Word) : (s.setHamCnt v).host = s.host := rfl
@[simp] theorem State.setHamCnt_schedule (s : State) (v : Word) : (s.setHamCnt v).schedule = s.schedule := rfl
@[simp] theorem State.setHamCnt_refills (s : State) (v : Word) : (s.setHamCnt v).refills = s.refills := rfl

/-! ### setBsc -/

@[simp] theorem State.setBsc_busy (s : State) (v : Word) : (s.setBsc v).busy = s.busy := rfl
@[simp] theorem State.setBsc_done (s : State) (v : Word) : (s.setBsc v).done = s.done := rfl
@[simp] theorem State.setBsc_bscValid (s : State) (v : Word) : (s.setBsc v).bscValid = true := rfl
@[simp] theorem State.setBsc_geValid (s : State) (v : Word) : (s.setBsc v).geValid = s.geValid := rfl
@[simp] theorem State.setBsc_err (s : State) (v : Word) : (s.setBsc v).err = s.err := rfl
@[simp] theorem State.setBsc_inLen (s : State) (v : Word) : (s.setBsc v).inLen = s.inLen := rfl
@[simp] theorem State.setBsc_tbDepth (s : State) (v : Word) : (s.setBsc v).tbDepth = s.tbDepth := rfl
@[simp] theorem State.setBsc_hamCnt (s : State) (v : Word) : (s.setBsc v).hamCnt = s.hamCnt := rfl
@[simp] theorem State.setBsc_param0 (s : State) (v : Word) : (s.setBsc v).param0 = s.param0 := rfl
@[simp] theorem State.setBsc_param1 (s : State) (v : Word) : (s.setBsc v).param1 = s.param1 := rfl
@[simp] theorem State.setBsc_param2 (s : State) (v : Word) : (s.setBsc v).param2 = s.param2 := rfl
@[simp] theorem State.setBsc_param3 (s : State) (v : Word) : (s.setBsc v).param3 = s.param3 := rfl
@[simp] theorem State.setBsc_bscBer (s : State) (v : Word) : (s.setBsc v).bscBer = v := rfl
@[simp] theorem State.setBsc_gePgb (s : State) (v : Word) : (s.setBsc v).gePgb = s.gePgb := rfl
@[simp] theorem State.setBsc_gePbg (s : State) (v : Word) : (s.setBsc v).gePbg = s.gePbg := rfl
@[simp] theorem State.setBsc_geEg (s : State) (v : Word) : (s.setBsc v).geEg = s.geEg := rfl
@[simp] theorem State.setBsc_geEb (s : State) (v : Word) : (s.setBsc v).geEb = s.geEb := rfl
@[simp] theorem State.setBsc_geState (s : State) (v : Word) : (s.setBsc v).geState = s.geState := rfl
@[simp] theorem State.setBsc_mem (s : State) (v : Word) : (s.setBsc v).mem = s.mem := rfl
@[simp] theorem State.setBsc_out (s : State) (v : Word) : (s.setBsc v).out = s.out := rfl
@[simp] theorem State.setBsc_flags (s : State) (v : Word) : (s.setBsc v).flags = s.flags := rfl
@[simp] theorem State.setBsc_pending (s : State) (v : Word) : (s.setBsc v).pending = s.pending := rfl
@[simp] theorem State.setBsc_cfg (s : State) (v : Word) : (s.setBsc v).cfg = s.cfg := rfl
@[simp] theorem State.setBsc_entropy (s : State) (v : Word) : (s.setBsc v).entropy = s.entropy := rfl
@[simp] theorem State.setBsc_anyBits (s : State) (v : Word) : (s.setBsc v).anyBits = s.anyBits := rfl
@[simp] theorem State.setBsc_host (s : State) (v : Word) : (s.setBsc v).host = s.host := rfl
@[simp] theorem State.setBsc_schedule (s : State) (v : Word) : (s.setBsc v).schedule = s.schedule := rfl
@[simp] theorem State.setBsc_refills (s : State) (v : Word) : (s.setBsc v).refills = s.refills := rfl

/-! ### setGe -/

@[simp] theorem State.setGe_busy (s : State) (a b c d : Word) : (s.setGe a b c d).busy = s.busy := rfl
@[simp] theorem State.setGe_done (s : State) (a b c d : Word) : (s.setGe a b c d).done = s.done := rfl
@[simp] theorem State.setGe_bscValid (s : State) (a b c d : Word) : (s.setGe a b c d).bscValid = s.bscValid := rfl
@[simp] theorem State.setGe_geValid (s : State) (a b c d : Word) : (s.setGe a b c d).geValid = true := rfl
@[simp] theorem State.setGe_err (s : State) (a b c d : Word) : (s.setGe a b c d).err = s.err := rfl
@[simp] theorem State.setGe_inLen (s : State) (a b c d : Word) : (s.setGe a b c d).inLen = s.inLen := rfl
@[simp] theorem State.setGe_tbDepth (s : State) (a b c d : Word) : (s.setGe a b c d).tbDepth = s.tbDepth := rfl
@[simp] theorem State.setGe_hamCnt (s : State) (a b c d : Word) : (s.setGe a b c d).hamCnt = s.hamCnt := rfl
@[simp] theorem State.setGe_param0 (s : State) (a b c d : Word) : (s.setGe a b c d).param0 = s.param0 := rfl
@[simp] theorem State.setGe_param1 (s : State) (a b c d : Word) : (s.setGe a b c d).param1 = s.param1 := rfl
@[simp] theorem State.setGe_param2 (s : State) (a b c d : Word) : (s.setGe a b c d).param2 = s.param2 := rfl
@[simp] theorem State.setGe_param3 (s : State) (a b c d : Word) : (s.setGe a b c d).param3 = s.param3 := rfl
@[simp] theorem State.setGe_bscBer (s : State) (a b c d : Word) : (s.setGe a b c d).bscBer = s.bscBer := rfl
@[simp] theorem State.setGe_gePgb (s : State) (a b c d : Word) : (s.setGe a b c d).gePgb = a := rfl
@[simp] theorem State.setGe_gePbg (s : State) (a b c d : Word) : (s.setGe a b c d).gePbg = b := rfl
@[simp] theorem State.setGe_geEg (s : State) (a b c d : Word) : (s.setGe a b c d).geEg = c := rfl
@[simp] theorem State.setGe_geEb (s : State) (a b c d : Word) : (s.setGe a b c d).geEb = d := rfl
@[simp] theorem State.setGe_geState (s : State) (a b c d : Word) : (s.setGe a b c d).geState = .good := rfl
@[simp] theorem State.setGe_mem (s : State) (a b c d : Word) : (s.setGe a b c d).mem = s.mem := rfl
@[simp] theorem State.setGe_out (s : State) (a b c d : Word) : (s.setGe a b c d).out = s.out := rfl
@[simp] theorem State.setGe_flags (s : State) (a b c d : Word) : (s.setGe a b c d).flags = s.flags := rfl
@[simp] theorem State.setGe_pending (s : State) (a b c d : Word) : (s.setGe a b c d).pending = s.pending := rfl
@[simp] theorem State.setGe_cfg (s : State) (a b c d : Word) : (s.setGe a b c d).cfg = s.cfg := rfl
@[simp] theorem State.setGe_entropy (s : State) (a b c d : Word) : (s.setGe a b c d).entropy = s.entropy := rfl
@[simp] theorem State.setGe_anyBits (s : State) (a b c d : Word) : (s.setGe a b c d).anyBits = s.anyBits := rfl
@[simp] theorem State.setGe_host (s : State) (a b c d : Word) : (s.setGe a b c d).host = s.host := rfl
@[simp] theorem State.setGe_schedule (s : State) (a b c d : Word) : (s.setGe a b c d).schedule = s.schedule := rfl
@[simp] theorem State.setGe_refills (s : State) (a b c d : Word) : (s.setGe a b c d).refills = s.refills := rfl

/-! ### setGeState -/

@[simp] theorem State.setGeState_busy (s : State) (g : Channel) : (s.setGeState g).busy = s.busy := rfl
@[simp] theorem State.setGeState_done (s : State) (g : Channel) : (s.setGeState g).done = s.done := rfl
@[simp] theorem State.setGeState_bscValid (s : State) (g : Channel) : (s.setGeState g).bscValid = s.bscValid := rfl
@[simp] theorem State.setGeState_geValid (s : State) (g : Channel) : (s.setGeState g).geValid = s.geValid := rfl
@[simp] theorem State.setGeState_err (s : State) (g : Channel) : (s.setGeState g).err = s.err := rfl
@[simp] theorem State.setGeState_inLen (s : State) (g : Channel) : (s.setGeState g).inLen = s.inLen := rfl
@[simp] theorem State.setGeState_tbDepth (s : State) (g : Channel) : (s.setGeState g).tbDepth = s.tbDepth := rfl
@[simp] theorem State.setGeState_hamCnt (s : State) (g : Channel) : (s.setGeState g).hamCnt = s.hamCnt := rfl
@[simp] theorem State.setGeState_param0 (s : State) (g : Channel) : (s.setGeState g).param0 = s.param0 := rfl
@[simp] theorem State.setGeState_param1 (s : State) (g : Channel) : (s.setGeState g).param1 = s.param1 := rfl
@[simp] theorem State.setGeState_param2 (s : State) (g : Channel) : (s.setGeState g).param2 = s.param2 := rfl
@[simp] theorem State.setGeState_param3 (s : State) (g : Channel) : (s.setGeState g).param3 = s.param3 := rfl
@[simp] theorem State.setGeState_bscBer (s : State) (g : Channel) : (s.setGeState g).bscBer = s.bscBer := rfl
@[simp] theorem State.setGeState_gePgb (s : State) (g : Channel) : (s.setGeState g).gePgb = s.gePgb := rfl
@[simp] theorem State.setGeState_gePbg (s : State) (g : Channel) : (s.setGeState g).gePbg = s.gePbg := rfl
@[simp] theorem State.setGeState_geEg (s : State) (g : Channel) : (s.setGeState g).geEg = s.geEg := rfl
@[simp] theorem State.setGeState_geEb (s : State) (g : Channel) : (s.setGeState g).geEb = s.geEb := rfl
@[simp] theorem State.setGeState_geState (s : State) (g : Channel) : (s.setGeState g).geState = g := rfl
@[simp] theorem State.setGeState_mem (s : State) (g : Channel) : (s.setGeState g).mem = s.mem := rfl
@[simp] theorem State.setGeState_out (s : State) (g : Channel) : (s.setGeState g).out = s.out := rfl
@[simp] theorem State.setGeState_flags (s : State) (g : Channel) : (s.setGeState g).flags = s.flags := rfl
@[simp] theorem State.setGeState_pending (s : State) (g : Channel) : (s.setGeState g).pending = s.pending := rfl
@[simp] theorem State.setGeState_cfg (s : State) (g : Channel) : (s.setGeState g).cfg = s.cfg := rfl
@[simp] theorem State.setGeState_entropy (s : State) (g : Channel) : (s.setGeState g).entropy = s.entropy := rfl
@[simp] theorem State.setGeState_anyBits (s : State) (g : Channel) : (s.setGeState g).anyBits = s.anyBits := rfl
@[simp] theorem State.setGeState_host (s : State) (g : Channel) : (s.setGeState g).host = s.host := rfl
@[simp] theorem State.setGeState_schedule (s : State) (g : Channel) : (s.setGeState g).schedule = s.schedule := rfl
@[simp] theorem State.setGeState_refills (s : State) (g : Channel) : (s.setGeState g).refills = s.refills := rfl

/-! ### setEntropy -/

@[simp] theorem State.setEntropy_busy (s : State) (p : FreePort) : (s.setEntropy p).busy = s.busy := rfl
@[simp] theorem State.setEntropy_done (s : State) (p : FreePort) : (s.setEntropy p).done = s.done := rfl
@[simp] theorem State.setEntropy_bscValid (s : State) (p : FreePort) : (s.setEntropy p).bscValid = s.bscValid := rfl
@[simp] theorem State.setEntropy_geValid (s : State) (p : FreePort) : (s.setEntropy p).geValid = s.geValid := rfl
@[simp] theorem State.setEntropy_err (s : State) (p : FreePort) : (s.setEntropy p).err = s.err := rfl
@[simp] theorem State.setEntropy_inLen (s : State) (p : FreePort) : (s.setEntropy p).inLen = s.inLen := rfl
@[simp] theorem State.setEntropy_tbDepth (s : State) (p : FreePort) : (s.setEntropy p).tbDepth = s.tbDepth := rfl
@[simp] theorem State.setEntropy_hamCnt (s : State) (p : FreePort) : (s.setEntropy p).hamCnt = s.hamCnt := rfl
@[simp] theorem State.setEntropy_param0 (s : State) (p : FreePort) : (s.setEntropy p).param0 = s.param0 := rfl
@[simp] theorem State.setEntropy_param1 (s : State) (p : FreePort) : (s.setEntropy p).param1 = s.param1 := rfl
@[simp] theorem State.setEntropy_param2 (s : State) (p : FreePort) : (s.setEntropy p).param2 = s.param2 := rfl
@[simp] theorem State.setEntropy_param3 (s : State) (p : FreePort) : (s.setEntropy p).param3 = s.param3 := rfl
@[simp] theorem State.setEntropy_bscBer (s : State) (p : FreePort) : (s.setEntropy p).bscBer = s.bscBer := rfl
@[simp] theorem State.setEntropy_gePgb (s : State) (p : FreePort) : (s.setEntropy p).gePgb = s.gePgb := rfl
@[simp] theorem State.setEntropy_gePbg (s : State) (p : FreePort) : (s.setEntropy p).gePbg = s.gePbg := rfl
@[simp] theorem State.setEntropy_geEg (s : State) (p : FreePort) : (s.setEntropy p).geEg = s.geEg := rfl
@[simp] theorem State.setEntropy_geEb (s : State) (p : FreePort) : (s.setEntropy p).geEb = s.geEb := rfl
@[simp] theorem State.setEntropy_geState (s : State) (p : FreePort) : (s.setEntropy p).geState = s.geState := rfl
@[simp] theorem State.setEntropy_mem (s : State) (p : FreePort) : (s.setEntropy p).mem = s.mem := rfl
@[simp] theorem State.setEntropy_out (s : State) (p : FreePort) : (s.setEntropy p).out = s.out := rfl
@[simp] theorem State.setEntropy_flags (s : State) (p : FreePort) : (s.setEntropy p).flags = s.flags := rfl
@[simp] theorem State.setEntropy_pending (s : State) (p : FreePort) : (s.setEntropy p).pending = s.pending := rfl
@[simp] theorem State.setEntropy_cfg (s : State) (p : FreePort) : (s.setEntropy p).cfg = s.cfg := rfl
@[simp] theorem State.setEntropy_entropy (s : State) (p : FreePort) : (s.setEntropy p).entropy = p := rfl
@[simp] theorem State.setEntropy_anyBits (s : State) (p : FreePort) : (s.setEntropy p).anyBits = s.anyBits := rfl
@[simp] theorem State.setEntropy_host (s : State) (p : FreePort) : (s.setEntropy p).host = s.host := rfl
@[simp] theorem State.setEntropy_schedule (s : State) (p : FreePort) : (s.setEntropy p).schedule = s.schedule := rfl
@[simp] theorem State.setEntropy_refills (s : State) (p : FreePort) : (s.setEntropy p).refills = s.refills := rfl

/-! ### setAnyBits -/

@[simp] theorem State.setAnyBits_busy (s : State) (p : FreePort) : (s.setAnyBits p).busy = s.busy := rfl
@[simp] theorem State.setAnyBits_done (s : State) (p : FreePort) : (s.setAnyBits p).done = s.done := rfl
@[simp] theorem State.setAnyBits_bscValid (s : State) (p : FreePort) : (s.setAnyBits p).bscValid = s.bscValid := rfl
@[simp] theorem State.setAnyBits_geValid (s : State) (p : FreePort) : (s.setAnyBits p).geValid = s.geValid := rfl
@[simp] theorem State.setAnyBits_err (s : State) (p : FreePort) : (s.setAnyBits p).err = s.err := rfl
@[simp] theorem State.setAnyBits_inLen (s : State) (p : FreePort) : (s.setAnyBits p).inLen = s.inLen := rfl
@[simp] theorem State.setAnyBits_tbDepth (s : State) (p : FreePort) : (s.setAnyBits p).tbDepth = s.tbDepth := rfl
@[simp] theorem State.setAnyBits_hamCnt (s : State) (p : FreePort) : (s.setAnyBits p).hamCnt = s.hamCnt := rfl
@[simp] theorem State.setAnyBits_param0 (s : State) (p : FreePort) : (s.setAnyBits p).param0 = s.param0 := rfl
@[simp] theorem State.setAnyBits_param1 (s : State) (p : FreePort) : (s.setAnyBits p).param1 = s.param1 := rfl
@[simp] theorem State.setAnyBits_param2 (s : State) (p : FreePort) : (s.setAnyBits p).param2 = s.param2 := rfl
@[simp] theorem State.setAnyBits_param3 (s : State) (p : FreePort) : (s.setAnyBits p).param3 = s.param3 := rfl
@[simp] theorem State.setAnyBits_bscBer (s : State) (p : FreePort) : (s.setAnyBits p).bscBer = s.bscBer := rfl
@[simp] theorem State.setAnyBits_gePgb (s : State) (p : FreePort) : (s.setAnyBits p).gePgb = s.gePgb := rfl
@[simp] theorem State.setAnyBits_gePbg (s : State) (p : FreePort) : (s.setAnyBits p).gePbg = s.gePbg := rfl
@[simp] theorem State.setAnyBits_geEg (s : State) (p : FreePort) : (s.setAnyBits p).geEg = s.geEg := rfl
@[simp] theorem State.setAnyBits_geEb (s : State) (p : FreePort) : (s.setAnyBits p).geEb = s.geEb := rfl
@[simp] theorem State.setAnyBits_geState (s : State) (p : FreePort) : (s.setAnyBits p).geState = s.geState := rfl
@[simp] theorem State.setAnyBits_mem (s : State) (p : FreePort) : (s.setAnyBits p).mem = s.mem := rfl
@[simp] theorem State.setAnyBits_out (s : State) (p : FreePort) : (s.setAnyBits p).out = s.out := rfl
@[simp] theorem State.setAnyBits_flags (s : State) (p : FreePort) : (s.setAnyBits p).flags = s.flags := rfl
@[simp] theorem State.setAnyBits_pending (s : State) (p : FreePort) : (s.setAnyBits p).pending = s.pending := rfl
@[simp] theorem State.setAnyBits_cfg (s : State) (p : FreePort) : (s.setAnyBits p).cfg = s.cfg := rfl
@[simp] theorem State.setAnyBits_entropy (s : State) (p : FreePort) : (s.setAnyBits p).entropy = s.entropy := rfl
@[simp] theorem State.setAnyBits_anyBits (s : State) (p : FreePort) : (s.setAnyBits p).anyBits = p := rfl
@[simp] theorem State.setAnyBits_host (s : State) (p : FreePort) : (s.setAnyBits p).host = s.host := rfl
@[simp] theorem State.setAnyBits_schedule (s : State) (p : FreePort) : (s.setAnyBits p).schedule = s.schedule := rfl
@[simp] theorem State.setAnyBits_refills (s : State) (p : FreePort) : (s.setAnyBits p).refills = s.refills := rfl

/-! ### setMem -/

@[simp] theorem State.setMem_busy (s : State) (m : Memory) : (s.setMem m).busy = s.busy := rfl
@[simp] theorem State.setMem_done (s : State) (m : Memory) : (s.setMem m).done = s.done := rfl
@[simp] theorem State.setMem_bscValid (s : State) (m : Memory) : (s.setMem m).bscValid = s.bscValid := rfl
@[simp] theorem State.setMem_geValid (s : State) (m : Memory) : (s.setMem m).geValid = s.geValid := rfl
@[simp] theorem State.setMem_err (s : State) (m : Memory) : (s.setMem m).err = s.err := rfl
@[simp] theorem State.setMem_inLen (s : State) (m : Memory) : (s.setMem m).inLen = s.inLen := rfl
@[simp] theorem State.setMem_tbDepth (s : State) (m : Memory) : (s.setMem m).tbDepth = s.tbDepth := rfl
@[simp] theorem State.setMem_hamCnt (s : State) (m : Memory) : (s.setMem m).hamCnt = s.hamCnt := rfl
@[simp] theorem State.setMem_param0 (s : State) (m : Memory) : (s.setMem m).param0 = s.param0 := rfl
@[simp] theorem State.setMem_param1 (s : State) (m : Memory) : (s.setMem m).param1 = s.param1 := rfl
@[simp] theorem State.setMem_param2 (s : State) (m : Memory) : (s.setMem m).param2 = s.param2 := rfl
@[simp] theorem State.setMem_param3 (s : State) (m : Memory) : (s.setMem m).param3 = s.param3 := rfl
@[simp] theorem State.setMem_bscBer (s : State) (m : Memory) : (s.setMem m).bscBer = s.bscBer := rfl
@[simp] theorem State.setMem_gePgb (s : State) (m : Memory) : (s.setMem m).gePgb = s.gePgb := rfl
@[simp] theorem State.setMem_gePbg (s : State) (m : Memory) : (s.setMem m).gePbg = s.gePbg := rfl
@[simp] theorem State.setMem_geEg (s : State) (m : Memory) : (s.setMem m).geEg = s.geEg := rfl
@[simp] theorem State.setMem_geEb (s : State) (m : Memory) : (s.setMem m).geEb = s.geEb := rfl
@[simp] theorem State.setMem_geState (s : State) (m : Memory) : (s.setMem m).geState = s.geState := rfl
@[simp] theorem State.setMem_mem (s : State) (m : Memory) : (s.setMem m).mem = m := rfl
@[simp] theorem State.setMem_out (s : State) (m : Memory) : (s.setMem m).out = s.out := rfl
@[simp] theorem State.setMem_flags (s : State) (m : Memory) : (s.setMem m).flags = s.flags := rfl
@[simp] theorem State.setMem_pending (s : State) (m : Memory) : (s.setMem m).pending = s.pending := rfl
@[simp] theorem State.setMem_cfg (s : State) (m : Memory) : (s.setMem m).cfg = s.cfg := rfl
@[simp] theorem State.setMem_entropy (s : State) (m : Memory) : (s.setMem m).entropy = s.entropy := rfl
@[simp] theorem State.setMem_anyBits (s : State) (m : Memory) : (s.setMem m).anyBits = s.anyBits := rfl
@[simp] theorem State.setMem_host (s : State) (m : Memory) : (s.setMem m).host = s.host := rfl
@[simp] theorem State.setMem_schedule (s : State) (m : Memory) : (s.setMem m).schedule = s.schedule := rfl
@[simp] theorem State.setMem_refills (s : State) (m : Memory) : (s.setMem m).refills = s.refills := rfl

/-! ### setHost -/

@[simp] theorem State.setHost_busy (s : State) (h : HostAgent) : (s.setHost h).busy = s.busy := rfl
@[simp] theorem State.setHost_done (s : State) (h : HostAgent) : (s.setHost h).done = s.done := rfl
@[simp] theorem State.setHost_bscValid (s : State) (h : HostAgent) : (s.setHost h).bscValid = s.bscValid := rfl
@[simp] theorem State.setHost_geValid (s : State) (h : HostAgent) : (s.setHost h).geValid = s.geValid := rfl
@[simp] theorem State.setHost_err (s : State) (h : HostAgent) : (s.setHost h).err = s.err := rfl
@[simp] theorem State.setHost_inLen (s : State) (h : HostAgent) : (s.setHost h).inLen = s.inLen := rfl
@[simp] theorem State.setHost_tbDepth (s : State) (h : HostAgent) : (s.setHost h).tbDepth = s.tbDepth := rfl
@[simp] theorem State.setHost_hamCnt (s : State) (h : HostAgent) : (s.setHost h).hamCnt = s.hamCnt := rfl
@[simp] theorem State.setHost_param0 (s : State) (h : HostAgent) : (s.setHost h).param0 = s.param0 := rfl
@[simp] theorem State.setHost_param1 (s : State) (h : HostAgent) : (s.setHost h).param1 = s.param1 := rfl
@[simp] theorem State.setHost_param2 (s : State) (h : HostAgent) : (s.setHost h).param2 = s.param2 := rfl
@[simp] theorem State.setHost_param3 (s : State) (h : HostAgent) : (s.setHost h).param3 = s.param3 := rfl
@[simp] theorem State.setHost_bscBer (s : State) (h : HostAgent) : (s.setHost h).bscBer = s.bscBer := rfl
@[simp] theorem State.setHost_gePgb (s : State) (h : HostAgent) : (s.setHost h).gePgb = s.gePgb := rfl
@[simp] theorem State.setHost_gePbg (s : State) (h : HostAgent) : (s.setHost h).gePbg = s.gePbg := rfl
@[simp] theorem State.setHost_geEg (s : State) (h : HostAgent) : (s.setHost h).geEg = s.geEg := rfl
@[simp] theorem State.setHost_geEb (s : State) (h : HostAgent) : (s.setHost h).geEb = s.geEb := rfl
@[simp] theorem State.setHost_geState (s : State) (h : HostAgent) : (s.setHost h).geState = s.geState := rfl
@[simp] theorem State.setHost_mem (s : State) (h : HostAgent) : (s.setHost h).mem = s.mem := rfl
@[simp] theorem State.setHost_out (s : State) (h : HostAgent) : (s.setHost h).out = s.out := rfl
@[simp] theorem State.setHost_flags (s : State) (h : HostAgent) : (s.setHost h).flags = s.flags := rfl
@[simp] theorem State.setHost_pending (s : State) (h : HostAgent) : (s.setHost h).pending = s.pending := rfl
@[simp] theorem State.setHost_cfg (s : State) (h : HostAgent) : (s.setHost h).cfg = s.cfg := rfl
@[simp] theorem State.setHost_entropy (s : State) (h : HostAgent) : (s.setHost h).entropy = s.entropy := rfl
@[simp] theorem State.setHost_anyBits (s : State) (h : HostAgent) : (s.setHost h).anyBits = s.anyBits := rfl
@[simp] theorem State.setHost_host (s : State) (h : HostAgent) : (s.setHost h).host = h := rfl
@[simp] theorem State.setHost_schedule (s : State) (h : HostAgent) : (s.setHost h).schedule = s.schedule := rfl
@[simp] theorem State.setHost_refills (s : State) (h : HostAgent) : (s.setHost h).refills = s.refills := rfl

/-! ### setSchedule -/

@[simp] theorem State.setSchedule_busy (s : State) (ts : List Turn) : (s.setSchedule ts).busy = s.busy := rfl
@[simp] theorem State.setSchedule_done (s : State) (ts : List Turn) : (s.setSchedule ts).done = s.done := rfl
@[simp] theorem State.setSchedule_bscValid (s : State) (ts : List Turn) : (s.setSchedule ts).bscValid = s.bscValid := rfl
@[simp] theorem State.setSchedule_geValid (s : State) (ts : List Turn) : (s.setSchedule ts).geValid = s.geValid := rfl
@[simp] theorem State.setSchedule_err (s : State) (ts : List Turn) : (s.setSchedule ts).err = s.err := rfl
@[simp] theorem State.setSchedule_inLen (s : State) (ts : List Turn) : (s.setSchedule ts).inLen = s.inLen := rfl
@[simp] theorem State.setSchedule_tbDepth (s : State) (ts : List Turn) : (s.setSchedule ts).tbDepth = s.tbDepth := rfl
@[simp] theorem State.setSchedule_hamCnt (s : State) (ts : List Turn) : (s.setSchedule ts).hamCnt = s.hamCnt := rfl
@[simp] theorem State.setSchedule_param0 (s : State) (ts : List Turn) : (s.setSchedule ts).param0 = s.param0 := rfl
@[simp] theorem State.setSchedule_param1 (s : State) (ts : List Turn) : (s.setSchedule ts).param1 = s.param1 := rfl
@[simp] theorem State.setSchedule_param2 (s : State) (ts : List Turn) : (s.setSchedule ts).param2 = s.param2 := rfl
@[simp] theorem State.setSchedule_param3 (s : State) (ts : List Turn) : (s.setSchedule ts).param3 = s.param3 := rfl
@[simp] theorem State.setSchedule_bscBer (s : State) (ts : List Turn) : (s.setSchedule ts).bscBer = s.bscBer := rfl
@[simp] theorem State.setSchedule_gePgb (s : State) (ts : List Turn) : (s.setSchedule ts).gePgb = s.gePgb := rfl
@[simp] theorem State.setSchedule_gePbg (s : State) (ts : List Turn) : (s.setSchedule ts).gePbg = s.gePbg := rfl
@[simp] theorem State.setSchedule_geEg (s : State) (ts : List Turn) : (s.setSchedule ts).geEg = s.geEg := rfl
@[simp] theorem State.setSchedule_geEb (s : State) (ts : List Turn) : (s.setSchedule ts).geEb = s.geEb := rfl
@[simp] theorem State.setSchedule_geState (s : State) (ts : List Turn) : (s.setSchedule ts).geState = s.geState := rfl
@[simp] theorem State.setSchedule_mem (s : State) (ts : List Turn) : (s.setSchedule ts).mem = s.mem := rfl
@[simp] theorem State.setSchedule_out (s : State) (ts : List Turn) : (s.setSchedule ts).out = s.out := rfl
@[simp] theorem State.setSchedule_flags (s : State) (ts : List Turn) : (s.setSchedule ts).flags = s.flags := rfl
@[simp] theorem State.setSchedule_pending (s : State) (ts : List Turn) : (s.setSchedule ts).pending = s.pending := rfl
@[simp] theorem State.setSchedule_cfg (s : State) (ts : List Turn) : (s.setSchedule ts).cfg = s.cfg := rfl
@[simp] theorem State.setSchedule_entropy (s : State) (ts : List Turn) : (s.setSchedule ts).entropy = s.entropy := rfl
@[simp] theorem State.setSchedule_anyBits (s : State) (ts : List Turn) : (s.setSchedule ts).anyBits = s.anyBits := rfl
@[simp] theorem State.setSchedule_host (s : State) (ts : List Turn) : (s.setSchedule ts).host = s.host := rfl
@[simp] theorem State.setSchedule_schedule (s : State) (ts : List Turn) : (s.setSchedule ts).schedule = ts := rfl
@[simp] theorem State.setSchedule_refills (s : State) (ts : List Turn) : (s.setSchedule ts).refills = s.refills := rfl

/-! ### afterTurn -/

@[simp] theorem State.afterTurn_busy (s : State) : (s.afterTurn).busy = s.busy := rfl
@[simp] theorem State.afterTurn_done (s : State) : (s.afterTurn).done = s.done := rfl
@[simp] theorem State.afterTurn_bscValid (s : State) : (s.afterTurn).bscValid = s.bscValid := rfl
@[simp] theorem State.afterTurn_geValid (s : State) : (s.afterTurn).geValid = s.geValid := rfl
@[simp] theorem State.afterTurn_err (s : State) : (s.afterTurn).err = s.err := rfl
@[simp] theorem State.afterTurn_inLen (s : State) : (s.afterTurn).inLen = s.inLen := rfl
@[simp] theorem State.afterTurn_tbDepth (s : State) : (s.afterTurn).tbDepth = s.tbDepth := rfl
@[simp] theorem State.afterTurn_hamCnt (s : State) : (s.afterTurn).hamCnt = s.hamCnt := rfl
@[simp] theorem State.afterTurn_param0 (s : State) : (s.afterTurn).param0 = s.param0 := rfl
@[simp] theorem State.afterTurn_param1 (s : State) : (s.afterTurn).param1 = s.param1 := rfl
@[simp] theorem State.afterTurn_param2 (s : State) : (s.afterTurn).param2 = s.param2 := rfl
@[simp] theorem State.afterTurn_param3 (s : State) : (s.afterTurn).param3 = s.param3 := rfl
@[simp] theorem State.afterTurn_bscBer (s : State) : (s.afterTurn).bscBer = s.bscBer := rfl
@[simp] theorem State.afterTurn_gePgb (s : State) : (s.afterTurn).gePgb = s.gePgb := rfl
@[simp] theorem State.afterTurn_gePbg (s : State) : (s.afterTurn).gePbg = s.gePbg := rfl
@[simp] theorem State.afterTurn_geEg (s : State) : (s.afterTurn).geEg = s.geEg := rfl
@[simp] theorem State.afterTurn_geEb (s : State) : (s.afterTurn).geEb = s.geEb := rfl
@[simp] theorem State.afterTurn_geState (s : State) : (s.afterTurn).geState = s.geState := rfl
@[simp] theorem State.afterTurn_mem (s : State) : (s.afterTurn).mem = s.mem := rfl
@[simp] theorem State.afterTurn_out (s : State) : (s.afterTurn).out = s.out := rfl
@[simp] theorem State.afterTurn_flags (s : State) : (s.afterTurn).flags = s.flags := rfl
@[simp] theorem State.afterTurn_pending (s : State) : (s.afterTurn).pending = s.pending := rfl
@[simp] theorem State.afterTurn_cfg (s : State) : (s.afterTurn).cfg = s.cfg := rfl
@[simp] theorem State.afterTurn_entropy (s : State) : (s.afterTurn).entropy = s.entropy := rfl
@[simp] theorem State.afterTurn_anyBits (s : State) : (s.afterTurn).anyBits = s.anyBits := rfl
@[simp] theorem State.afterTurn_host (s : State) : (s.afterTurn).host = s.host := rfl
@[simp] theorem State.afterTurn_schedule (s : State) : (s.afterTurn).schedule = if s.schedule.isEmpty then Config.freeTurns s.refills else s.schedule.tail := rfl
@[simp] theorem State.afterTurn_refills (s : State) : (s.afterTurn).refills = if s.schedule.isEmpty then s.refills + 1 else s.refills := rfl

/-! ### countCorrections -/

@[simp] theorem State.countCorrections_busy (s : State) (n : Nat) : (s.countCorrections n).busy = s.busy := rfl
@[simp] theorem State.countCorrections_done (s : State) (n : Nat) : (s.countCorrections n).done = s.done := rfl
@[simp] theorem State.countCorrections_bscValid (s : State) (n : Nat) : (s.countCorrections n).bscValid = s.bscValid := rfl
@[simp] theorem State.countCorrections_geValid (s : State) (n : Nat) : (s.countCorrections n).geValid = s.geValid := rfl
@[simp] theorem State.countCorrections_err (s : State) (n : Nat) : (s.countCorrections n).err = s.err := rfl
@[simp] theorem State.countCorrections_inLen (s : State) (n : Nat) : (s.countCorrections n).inLen = s.inLen := rfl
@[simp] theorem State.countCorrections_tbDepth (s : State) (n : Nat) : (s.countCorrections n).tbDepth = s.tbDepth := rfl
@[simp] theorem State.countCorrections_hamCnt (s : State) (n : Nat) : (s.countCorrections n).hamCnt = s.hamCnt + BitVec.ofNat 32 n := rfl
@[simp] theorem State.countCorrections_param0 (s : State) (n : Nat) : (s.countCorrections n).param0 = s.param0 := rfl
@[simp] theorem State.countCorrections_param1 (s : State) (n : Nat) : (s.countCorrections n).param1 = s.param1 := rfl
@[simp] theorem State.countCorrections_param2 (s : State) (n : Nat) : (s.countCorrections n).param2 = s.param2 := rfl
@[simp] theorem State.countCorrections_param3 (s : State) (n : Nat) : (s.countCorrections n).param3 = s.param3 := rfl
@[simp] theorem State.countCorrections_bscBer (s : State) (n : Nat) : (s.countCorrections n).bscBer = s.bscBer := rfl
@[simp] theorem State.countCorrections_gePgb (s : State) (n : Nat) : (s.countCorrections n).gePgb = s.gePgb := rfl
@[simp] theorem State.countCorrections_gePbg (s : State) (n : Nat) : (s.countCorrections n).gePbg = s.gePbg := rfl
@[simp] theorem State.countCorrections_geEg (s : State) (n : Nat) : (s.countCorrections n).geEg = s.geEg := rfl
@[simp] theorem State.countCorrections_geEb (s : State) (n : Nat) : (s.countCorrections n).geEb = s.geEb := rfl
@[simp] theorem State.countCorrections_geState (s : State) (n : Nat) : (s.countCorrections n).geState = s.geState := rfl
@[simp] theorem State.countCorrections_mem (s : State) (n : Nat) : (s.countCorrections n).mem = s.mem := rfl
@[simp] theorem State.countCorrections_out (s : State) (n : Nat) : (s.countCorrections n).out = s.out := rfl
@[simp] theorem State.countCorrections_flags (s : State) (n : Nat) : (s.countCorrections n).flags = s.flags := rfl
@[simp] theorem State.countCorrections_pending (s : State) (n : Nat) : (s.countCorrections n).pending = s.pending := rfl
@[simp] theorem State.countCorrections_cfg (s : State) (n : Nat) : (s.countCorrections n).cfg = s.cfg := rfl
@[simp] theorem State.countCorrections_entropy (s : State) (n : Nat) : (s.countCorrections n).entropy = s.entropy := rfl
@[simp] theorem State.countCorrections_anyBits (s : State) (n : Nat) : (s.countCorrections n).anyBits = s.anyBits := rfl
@[simp] theorem State.countCorrections_host (s : State) (n : Nat) : (s.countCorrections n).host = s.host := rfl
@[simp] theorem State.countCorrections_schedule (s : State) (n : Nat) : (s.countCorrections n).schedule = s.schedule := rfl
@[simp] theorem State.countCorrections_refills (s : State) (n : Nat) : (s.countCorrections n).refills = s.refills := rfl

/-! ### afterDraws -/

@[simp] theorem State.afterDraws_busy (s : State) (n : Nat) : (s.afterDraws n).busy = s.busy := rfl
@[simp] theorem State.afterDraws_done (s : State) (n : Nat) : (s.afterDraws n).done = s.done := rfl
@[simp] theorem State.afterDraws_bscValid (s : State) (n : Nat) : (s.afterDraws n).bscValid = s.bscValid := rfl
@[simp] theorem State.afterDraws_geValid (s : State) (n : Nat) : (s.afterDraws n).geValid = s.geValid := rfl
@[simp] theorem State.afterDraws_err (s : State) (n : Nat) : (s.afterDraws n).err = s.err := rfl
@[simp] theorem State.afterDraws_inLen (s : State) (n : Nat) : (s.afterDraws n).inLen = s.inLen := rfl
@[simp] theorem State.afterDraws_tbDepth (s : State) (n : Nat) : (s.afterDraws n).tbDepth = s.tbDepth := rfl
@[simp] theorem State.afterDraws_hamCnt (s : State) (n : Nat) : (s.afterDraws n).hamCnt = s.hamCnt := rfl
@[simp] theorem State.afterDraws_param0 (s : State) (n : Nat) : (s.afterDraws n).param0 = s.param0 := rfl
@[simp] theorem State.afterDraws_param1 (s : State) (n : Nat) : (s.afterDraws n).param1 = s.param1 := rfl
@[simp] theorem State.afterDraws_param2 (s : State) (n : Nat) : (s.afterDraws n).param2 = s.param2 := rfl
@[simp] theorem State.afterDraws_param3 (s : State) (n : Nat) : (s.afterDraws n).param3 = s.param3 := rfl
@[simp] theorem State.afterDraws_bscBer (s : State) (n : Nat) : (s.afterDraws n).bscBer = s.bscBer := rfl
@[simp] theorem State.afterDraws_gePgb (s : State) (n : Nat) : (s.afterDraws n).gePgb = s.gePgb := rfl
@[simp] theorem State.afterDraws_gePbg (s : State) (n : Nat) : (s.afterDraws n).gePbg = s.gePbg := rfl
@[simp] theorem State.afterDraws_geEg (s : State) (n : Nat) : (s.afterDraws n).geEg = s.geEg := rfl
@[simp] theorem State.afterDraws_geEb (s : State) (n : Nat) : (s.afterDraws n).geEb = s.geEb := rfl
@[simp] theorem State.afterDraws_geState (s : State) (n : Nat) : (s.afterDraws n).geState = s.geState := rfl
@[simp] theorem State.afterDraws_mem (s : State) (n : Nat) : (s.afterDraws n).mem = s.mem := rfl
@[simp] theorem State.afterDraws_out (s : State) (n : Nat) : (s.afterDraws n).out = s.out := rfl
@[simp] theorem State.afterDraws_flags (s : State) (n : Nat) : (s.afterDraws n).flags = s.flags := rfl
@[simp] theorem State.afterDraws_pending (s : State) (n : Nat) : (s.afterDraws n).pending = s.pending := rfl
@[simp] theorem State.afterDraws_cfg (s : State) (n : Nat) : (s.afterDraws n).cfg = s.cfg := rfl
@[simp] theorem State.afterDraws_entropy (s : State) (n : Nat) : (s.afterDraws n).entropy = (s.entropy.nextMany Config.freeDraw n).2 := rfl
@[simp] theorem State.afterDraws_anyBits (s : State) (n : Nat) : (s.afterDraws n).anyBits = s.anyBits := rfl
@[simp] theorem State.afterDraws_host (s : State) (n : Nat) : (s.afterDraws n).host = s.host := rfl
@[simp] theorem State.afterDraws_schedule (s : State) (n : Nat) : (s.afterDraws n).schedule = s.schedule := rfl
@[simp] theorem State.afterDraws_refills (s : State) (n : Nat) : (s.afterDraws n).refills = s.refills := rfl

/-! ### hardwareReset -/

@[simp] theorem State.hardwareReset_busy (s : State) : (s.hardwareReset).busy = false := rfl
@[simp] theorem State.hardwareReset_done (s : State) : (s.hardwareReset).done = false := rfl
@[simp] theorem State.hardwareReset_bscValid (s : State) : (s.hardwareReset).bscValid = false := rfl
@[simp] theorem State.hardwareReset_geValid (s : State) : (s.hardwareReset).geValid = false := rfl
@[simp] theorem State.hardwareReset_err (s : State) : (s.hardwareReset).err = .none := rfl
@[simp] theorem State.hardwareReset_inLen (s : State) : (s.hardwareReset).inLen = 0#32 := rfl
@[simp] theorem State.hardwareReset_tbDepth (s : State) : (s.hardwareReset).tbDepth = 0#32 := rfl
@[simp] theorem State.hardwareReset_hamCnt (s : State) : (s.hardwareReset).hamCnt = 0#32 := rfl
@[simp] theorem State.hardwareReset_param0 (s : State) : (s.hardwareReset).param0 = 0#32 := rfl
@[simp] theorem State.hardwareReset_param1 (s : State) : (s.hardwareReset).param1 = 0#32 := rfl
@[simp] theorem State.hardwareReset_param2 (s : State) : (s.hardwareReset).param2 = 0#32 := rfl
@[simp] theorem State.hardwareReset_param3 (s : State) : (s.hardwareReset).param3 = 0#32 := rfl
@[simp] theorem State.hardwareReset_bscBer (s : State) : (s.hardwareReset).bscBer = 0#32 := rfl
@[simp] theorem State.hardwareReset_gePgb (s : State) : (s.hardwareReset).gePgb = 0#32 := rfl
@[simp] theorem State.hardwareReset_gePbg (s : State) : (s.hardwareReset).gePbg = 0#32 := rfl
@[simp] theorem State.hardwareReset_geEg (s : State) : (s.hardwareReset).geEg = 0#32 := rfl
@[simp] theorem State.hardwareReset_geEb (s : State) : (s.hardwareReset).geEb = 0#32 := rfl
@[simp] theorem State.hardwareReset_geState (s : State) : (s.hardwareReset).geState = .good := rfl
@[simp] theorem State.hardwareReset_mem (s : State) : (s.hardwareReset).mem = [] := rfl
@[simp] theorem State.hardwareReset_out (s : State) : (s.hardwareReset).out = [] := rfl
@[simp] theorem State.hardwareReset_flags (s : State) : (s.hardwareReset).flags = [] := rfl
@[simp] theorem State.hardwareReset_pending (s : State) : (s.hardwareReset).pending = none := rfl
@[simp] theorem State.hardwareReset_cfg (s : State) : (s.hardwareReset).cfg = s.cfg := rfl
@[simp] theorem State.hardwareReset_entropy (s : State) : (s.hardwareReset).entropy = s.entropy := rfl
@[simp] theorem State.hardwareReset_anyBits (s : State) : (s.hardwareReset).anyBits = s.anyBits := rfl
@[simp] theorem State.hardwareReset_host (s : State) : (s.hardwareReset).host = s.host := rfl
@[simp] theorem State.hardwareReset_schedule (s : State) : (s.hardwareReset).schedule = s.schedule := rfl
@[simp] theorem State.hardwareReset_refills (s : State) : (s.hardwareReset).refills = s.refills := rfl

end Sys2Proof.Machine
end

