-- ==== Sys2Proof/Laws/Bus.lean ====
section
/-! SUPPORT. What a host access, a host operation and a step of the machine can do (spec 20_memory.md R66 to R70,
30_encoding.md R102, 20_memory.md R73). -/

namespace Sys2Proof.Machine

/-! ### Address map -/

/-- Only an aligned 32-bit access reaches anything (20_memory.md R66). -/
theorem locate_aligned {p : Params} {addr width : Nat} {x : Target} (h : locate p addr width = some x) :
    width = 4 ∧ addr % 4 = 0 := by
  unfold locate at h
  split at h
  · assumption
  · simp at h

theorem bufferIndex_eq_some_iff (base bits addr k : Nat) :
    bufferIndex base bits addr = some k ↔ base ≤ addr ∧ k = (addr - base) / 4 ∧ k < bits / 32 := by
  unfold bufferIndex
  split
  · rename_i h
    rw [Option.some.injEq]
    constructor
    · rintro rfl; exact ⟨h.1, rfl, h.2⟩
    · rintro ⟨-, rfl, -⟩; rfl
  · rename_i h
    simp only [reduceCtorEq, false_iff]
    rintro ⟨h1, rfl, h2⟩
    exact h ⟨h1, h2⟩

theorem regAt_eq_some_iff (a : Nat) (r : RegName) : regAt a = some r ↔ a = r.offset := by
  constructor
  · intro h
    have hr := List.find?_some (p := fun r : RegName => r.offset == a) h
    exact (beq_iff_eq.1 hr).symm
  · rintro rfl
    cases r <;> rfl

/-- An access reaches IBUF word `k` exactly at its address (20_memory.md R65). -/
theorem locate_ibuf {p : Params} {addr width k : Nat} (h : locate p addr width = some (.ibuf k)) :
    addr = ibufBase + 4 * k ∧ k < p.ibufBits / 32 := by
  have ha := (locate_aligned h).2
  unfold locate at h
  split at h
  · split_ifs at h <;> simp [Option.map_eq_some_iff, bufferIndex_eq_some_iff] at h
    simp only [ibufBase] at *
    omega
  · simp at h

/-- An access reaches a register exactly at its offset (10_state.md R23). -/
theorem locate_reg_iff (p : Params) (addr width : Nat) (r : RegName) :
    locate p addr width = some (.reg r) ↔ width = 4 ∧ addr = r.offset := by
  constructor
  · intro h
    refine ⟨(locate_aligned h).1, ?_⟩
    unfold locate at h
    split at h
    · split_ifs at h <;> simp [Option.map_eq_some_iff, regAt_eq_some_iff] at h
      exact h
    · simp at h
  · rintro ⟨rfl, rfl⟩
    cases r <;> rfl

/-! ### Accesses -/

/-- A read that answers leaves the state as it was, except that a read of OBUF or FBUF takes fresh any-value bits
(20_memory.md R69, R70). -/
theorem busRead_ok {addr width : Nat} {s t : State} {v : Word} (h : busRead addr width s = .ok (v, t)) :
    t = s ∨ t = s.setAnyBits (s.anyBits.next Config.freeTail).2 := by
  simp only [busRead, State.readOutputWord] at h
  split at h
  · simp at h
  · split at h
    · simp at h
    · split at h <;> simp_all
    · split at h <;> simp_all
    · simp only [Except.ok.injEq, Prod.mk.injEq] at h; exact .inr h.2.symm
    · simp only [Except.ok.injEq, Prod.mk.injEq] at h; exact .inr h.2.symm

/-- A write that is performed writes one register of those the host may write, issues a command, or writes one word of
IBUF; the core is then not busy (20_memory.md R68, R70). -/
theorem busWrite_ok {addr width : Nat} {v : Word} {s t : State} (h : busWrite addr width v s = .ok t) :
    s.busy = false ∧
      ((∃ r, addr = r.offset ∧ s.regWrite v r = some t) ∨
        ∃ k, addr = ibufBase + 4 * k ∧ k < s.cfg.ibufBits / 32 ∧
          t = s.setMem (s.mem.writeWord (ibufBase + 4 * k) v)) := by
  simp only [busWrite] at h
  split at h
  · simp at h
  · rename_i hb
    refine ⟨by simpa [State.blocked] using hb, ?_⟩
    split at h
    · simp at h
    · rename_i r hl
      cases hw : s.regWrite v r with
      | none => simp [hw] at h
      | some x =>
        simp only [hw, Except.ok.injEq] at h
        exact .inl ⟨r, ((locate_reg_iff _ _ _ _).1 hl).2, h ▸ hw⟩
    · rename_i k hl
      simp only [Except.ok.injEq] at h
      exact .inr ⟨k, (locate_ibuf hl).1, (locate_ibuf hl).2, h.symm⟩
    · simp at h
    · simp at h

/-! ### Steps -/

/-- What the host's step can do: nothing but to its own agent, or one bus read or write (30_encoding.md R102). -/
theorem hostStep_next {s t : State} (h : hostStep s = .next t) :
    (∃ a, t = s.setHost a) ∨
    (∃ addr width v u a, busWrite addr width v s = .ok u ∧ t = u.setHost a) ∨
    (∃ addr width v u a, busRead addr width s = .ok (v, u) ∧ t = u.setHost a) := by
  have noop : s = s.setHost s.host := rfl
  have wr : ∀ addr width v, hostWrite addr width v s = .next t →
      ∃ addr width v u a, busWrite addr width v s = .ok u ∧ t = u.setHost a := by
    intro addr width v h
    cases hw : busWrite addr width v s with
    | error f => simp [hostWrite, hw] at h
    | ok u =>
      simp only [hostWrite, hw, Host.Outcome.next.injEq] at h
      exact ⟨addr, width, v, u, _, hw, h.symm⟩
  have val : ∀ x k, s.withValue x k = .next t → ∃ v, k v = .next t := by
    intro x k h
    cases hv : s.host.value x with
    | none => simp [State.withValue, hv] at h
    | some v => exact ⟨v, by simpa [State.withValue, hv] using h⟩
  unfold hostStep at h
  split at h
  · rename_i op _
    cases op with
    | write addr width data =>
      cases data with
      | imm v => exact .inr (.inl (wr _ _ _ h))
      | var x =>
        obtain ⟨v, h⟩ := val _ _ h
        exact .inr (.inl (wr _ _ _ h))
    | read addr width x =>
      simp only [performHostOp, hostRead] at h
      split at h
      · rename_i v u hr
        simp only [Host.Outcome.next.injEq] at h
        exact .inr (.inr ⟨addr, width, v, u, _, hr, h.symm⟩)
      · simp at h
    | check x value mask =>
      obtain ⟨v, h⟩ := val _ _ h
      simp only [Host.Outcome.next.injEq] at h
      exact .inl ⟨_, h.symm⟩
    | branchIf x mask target =>
      obtain ⟨v, h⟩ := val _ _ h
      simp only [Host.Outcome.next.injEq] at h
      exact .inl ⟨_, h.symm⟩
    | halt =>
      simp only [performHostOp, Host.Outcome.next.injEq] at h
      exact .inl ⟨s.host, h.symm.trans noop⟩
  · simp only [Host.Outcome.next.injEq] at h
    exact .inl ⟨s.host, h.symm.trans noop⟩

end Sys2Proof.Machine
end

