-- ==== Sys2Proof/Laws/Ops.lean ====
section
/-! SUPPORT. What the shared operations can do: validation, the input read, taking words from a port (spec 30_encoding.md
R93, R97; 60_exceptions.md R245, R246). -/

namespace Sys2Proof.Machine

/-! ### Validation -/

@[simp] theorem firstError_nil : firstError [] = none := rfl

@[simp] theorem firstError_cons (c : Check) (rest : List Check) :
    firstError (c :: rest) = if c.1 then some c.2 else firstError rest := rfl

/-- No error exactly when no check fails. -/
theorem firstError_eq_none_iff (cs : List Check) : firstError cs = none ↔ ∀ c ∈ cs, c.1 = false := by
  induction cs with
  | nil => simp
  | cons c rest ih =>
    rw [firstError_cons, List.forall_mem_cons]
    split <;> simp_all

theorem State.len_eq (s : State) : s.len = s.inLen.toNat := rfl

/-! Each check: when it fails, when it passes, and its error. -/

@[simp] theorem State.capacityCheck_fails (s : State) : s.capacityCheck.1 = true ↔ s.cfg.ibufBits < s.len := by
  simp [State.capacityCheck]

@[simp] theorem State.capacityCheck_passes (s : State) : s.capacityCheck.1 = false ↔ s.len ≤ s.cfg.ibufBits := by
  simp [State.capacityCheck]

@[simp] theorem State.capacityCheck_error (s : State) : s.capacityCheck.2 = .capacityExceeded := rfl

@[simp] theorem State.bscConfigured_fails (s : State) : s.bscConfigured.1 = true ↔ s.bscValid = false := by
  simp [State.bscConfigured]

@[simp] theorem State.bscConfigured_passes (s : State) : s.bscConfigured.1 = false ↔ s.bscValid = true := by
  simp [State.bscConfigured]

@[simp] theorem State.bscConfigured_error (s : State) : s.bscConfigured.2 = .notConfigured := rfl

@[simp] theorem State.geConfigured_fails (s : State) : s.geConfigured.1 = true ↔ s.geValid = false := by
  simp [State.geConfigured]

@[simp] theorem State.geConfigured_passes (s : State) : s.geConfigured.1 = false ↔ s.geValid = true := by
  simp [State.geConfigured]

@[simp] theorem State.geConfigured_error (s : State) : s.geConfigured.2 = .notConfigured := rfl

@[simp] theorem State.blockCheck_fails (s : State) (n : Nat) : (s.blockCheck n).1 = true ↔ s.len ≠ n := by
  simp [State.blockCheck]

@[simp] theorem State.blockCheck_passes (s : State) (n : Nat) : (s.blockCheck n).1 = false ↔ s.len = n := by
  simp [State.blockCheck]

@[simp] theorem State.blockCheck_error (s : State) (n : Nat) : (s.blockCheck n).2 = .invalidBlockSize := rfl

@[simp] theorem State.multipleCheck_fails (s : State) (n : Nat) (e : ErrCode) : (s.multipleCheck n e).1 = true ↔ s.len % n ≠ 0 := by
  simp [State.multipleCheck]

@[simp] theorem State.multipleCheck_passes (s : State) (n : Nat) (e : ErrCode) : (s.multipleCheck n e).1 = false ↔ s.len % n = 0 := by
  simp [State.multipleCheck]

@[simp] theorem State.multipleCheck_error (s : State) (n : Nat) (e : ErrCode) : (s.multipleCheck n e).2 = e := rfl

@[simp] theorem State.probabilityCheck_fails (s : State) (v : Word) : (s.probabilityCheck v).1 = true ↔ 2 ^ s.cfg.probW < v.toNat := by
  simp [State.probabilityCheck, probabilityWf]

@[simp] theorem State.probabilityCheck_passes (s : State) (v : Word) : (s.probabilityCheck v).1 = false ↔ v.toNat ≤ 2 ^ s.cfg.probW := by
  simp [State.probabilityCheck, probabilityWf]

@[simp] theorem State.probabilityCheck_error (s : State) (v : Word) : (s.probabilityCheck v).2 = .invalidChannelParams := rfl

/-- Every error a command raises is one of its checks'. -/
theorem firstError_mem {cs : List Check} {e : ErrCode} (h : firstError cs = some e) : ∃ c ∈ cs, c.1 = true ∧ c.2 = e := by
  induction cs with
  | nil => simp at h
  | cons c rest ih =>
    rw [firstError_cons] at h
    split at h
    · exact ⟨c, List.mem_cons_self, ‹_›, Option.some.inj h⟩
    · obtain ⟨d, hd, h⟩ := ih h
      exact ⟨d, List.mem_cons_of_mem _ hd, h⟩

/-- What a command can answer with a next state: the error of its first failing check, or its effect. -/
theorem State.command_next_iff (s t : State) (cs : List Check) (f : State → Result) :
    s.command cs f = .next t ↔
      (∃ e, firstError cs = some e ∧ t = s.finish e) ∨ (firstError cs = none ∧ f s = .next t) := by
  cases h : firstError cs <;> simp [State.command, State.raise, h, eq_comm]

/-- A command faults only when every check has passed and its effect faults. -/
theorem State.command_fault_iff (s : State) (cs : List Check) (f : State → Result) (x : Fault) :
    s.command cs f = .fault x ↔ firstError cs = none ∧ f s = .fault x := by
  cases h : firstError cs <;> simp [State.command, State.raise, h]

/-- A command is refused only when every check has passed and its effect is refused. -/
theorem State.command_refused_iff (s : State) (cs : List Check) (f : State → Result) (x : Refusal) :
    s.command cs f = .refused x ↔ firstError cs = none ∧ f s = .refused x := by
  cases h : firstError cs <;> simp [State.command, State.raise, h]

/-! ### The input read -/

theorem State.withInput_next_iff (s t : State) (f : Bits → State) :
    s.withInput f = .next t ↔ ∃ b, s.input = some b ∧ t = (f b).finish .none := by
  cases h : s.input <;> simp [State.withInput, State.succeed, h, eq_comm]

theorem State.withInput_fault_iff (s : State) (f : Bits → State) (x : Fault) :
    s.withInput f = .fault x ↔ s.input = none ∧ x = .uninitializedInput := by
  cases h : s.input <;> simp [State.withInput, State.succeed, h, eq_comm]

theorem State.withInput_ne_refused (s : State) (f : Bits → State) (x : Refusal) : s.withInput f ≠ .refused x := by
  cases h : s.input <;> simp [State.withInput, State.succeed, h]

@[simp] theorem State.succeed_next_iff (s t : State) : s.succeed = .next t ↔ t = s.finish .none := by
  simp [State.succeed, eq_comm]

@[simp] theorem State.raise_next_iff (s t : State) (e : ErrCode) : s.raise e = .next t ↔ t = s.finish e := by
  simp [State.raise, eq_comm]

/-- The bits read are the bits of the buffer, one by one. -/
theorem State.ibufBits_eq_some_iff (s : State) (i n : Nat) (b : Bits) :
    s.ibufBits i n = some b ↔ b.length = n ∧ ∀ k < n, s.ibufBit (i + k) = b[k]? := by
  induction n generalizing i b with
  | zero => cases b <;> simp [State.ibufBits]
  | succ n ih =>
    cases hb : s.ibufBit i with
    | none =>
      simp only [State.ibufBits, hb, reduceCtorEq, false_iff, not_and]
      intro hl h
      have := h 0 (Nat.succ_pos n)
      rw [Nat.add_zero, hb, eq_comm, List.getElem?_eq_none_iff] at this
      omega
    | some x =>
      cases b with
      | nil => cases h : s.ibufBits (i + 1) n <;> simp [State.ibufBits, hb, h]
      | cons y ys =>
        have key : s.ibufBits i (n + 1) = some (y :: ys) ↔ x = y ∧ s.ibufBits (i + 1) n = some ys := by
          cases h : s.ibufBits (i + 1) n <;> simp [State.ibufBits, hb, h]
        rw [key, ih]
        simp only [List.length_cons, Nat.add_right_cancel_iff]
        constructor
        · rintro ⟨rfl, hl, h⟩
          refine ⟨hl, fun k hk => ?_⟩
          cases k with
          | zero => simpa using hb
          | succ k => simpa [Nat.add_right_comm, Nat.add_assoc, Nat.add_comm 1] using h k (by omega)
        · rintro ⟨hl, h⟩
          refine ⟨by simpa [hb] using h 0 (Nat.succ_pos n), hl, fun k hk => ?_⟩
          simpa [Nat.add_right_comm, Nat.add_assoc, Nat.add_comm 1] using h (k + 1) (by omega)

/-- A command's input has IN_LEN bits. -/
theorem State.length_of_input {s : State} {b : Bits} (h : s.input = some b) : b.length = s.len :=
  ((s.ibufBits_eq_some_iff 0 s.len b).1 h).1

/-- The input depends on the state only through IBUF and IN_LEN. -/
theorem State.input_congr {s t : State} (hm : t.mem = s.mem) (hl : t.inLen = s.inLen) : t.input = s.input := by
  have hb : ∀ i, t.ibufBit i = s.ibufBit i := fun i => by simp only [State.ibufBit, State.ibufWord, hm]
  have hbits : ∀ n i, t.ibufBits i n = s.ibufBits i n := by
    intro n
    induction n with
    | zero => intro i; rfl
    | succ n ih => intro i; simp only [State.ibufBits, hb, ih]
  simp only [State.input, State.len, hl, hbits]

/-- The bits read are missing exactly where one of them is. -/
theorem State.ibufBits_eq_none_iff (s : State) (i n : Nat) :
    s.ibufBits i n = none ↔ ∃ k < n, s.ibufBit (i + k) = none := by
  induction n generalizing i with
  | zero => simp [State.ibufBits]
  | succ n ih =>
    have split_first : (∃ k < n + 1, s.ibufBit (i + k) = none) ↔
        s.ibufBit i = none ∨ ∃ k < n, s.ibufBit (i + 1 + k) = none := by
      constructor
      · rintro ⟨k, hk, h⟩
        cases k with
        | zero => exact .inl h
        | succ k => exact .inr ⟨k, by omega, by rwa [Nat.add_assoc, Nat.add_comm 1]⟩
      · rintro (h | ⟨k, hk, h⟩)
        · exact ⟨0, by omega, h⟩
        · exact ⟨k + 1, by omega, by rwa [Nat.add_assoc, Nat.add_comm 1] at h⟩
    rw [split_first, ← ih]
    cases hb : s.ibufBit i <;> cases h : s.ibufBits (i + 1) n <;> simp [State.ibufBits, hb, h]

/-- A bit of IBUF is missing exactly while its word is unwritten (10_state.md R38). -/
theorem State.ibufBit_eq_none_iff (s : State) (i : Nat) : s.ibufBit i = none ↔ s.ibufWord (i / 32) = none := by
  cases h : s.ibufWord (i / 32) <;> simp [State.ibufBit, h]

/-! ### Ports -/

/-- `n` words taken are `n` words: the queued ones, then the free values that follow. -/
theorem FreePort.nextMany_getElem? (free : Nat → Word) (n : Nat) (p : FreePort) (k : Nat) :
    (p.nextMany free n).1[k]? = if k < n then some (p.queue.getD k (free (p.taken + k))) else none := by
  induction n generalizing p k with
  | zero => simp [FreePort.nextMany]
  | succ n ih =>
    obtain ⟨q, c⟩ := p
    cases q with
    | nil =>
      cases k with
      | zero => simp [FreePort.nextMany, FreePort.next]
      | succ k => simp [FreePort.nextMany, FreePort.next, ih, Nat.add_right_comm, Nat.add_assoc]
    | cons w q =>
      cases k with
      | zero => simp [FreePort.nextMany, FreePort.next]
      | succ k => simp [FreePort.nextMany, FreePort.next, ih, Nat.add_assoc, Nat.add_comm 1]

@[simp] theorem FreePort.nextMany_length (free : Nat → Word) (n : Nat) (p : FreePort) :
    (p.nextMany free n).1.length = n := by
  induction n generalizing p with
  | zero => rfl
  | succ n ih => simp [FreePort.nextMany, ih]

/-- The port after `n` words: the queue has lost its first `n`, and `n` more words are taken. -/
theorem FreePort.nextMany_snd (free : Nat → Word) (n : Nat) (p : FreePort) :
    (p.nextMany free n).2 = { queue := p.queue.drop n, taken := p.taken + n } := by
  induction n generalizing p with
  | zero => rfl
  | succ n ih =>
    obtain ⟨q, c⟩ := p
    cases q <;> simp [FreePort.nextMany, FreePort.next, ih, Nat.add_right_comm, Nat.add_assoc]

/-- Taking `m + n` words is taking `m` and then `n`. -/
theorem FreePort.nextMany_add (free : Nat → Word) (m n : Nat) (p : FreePort) :
    (p.nextMany free (m + n)).1 = (p.nextMany free m).1 ++ ((p.nextMany free m).2.nextMany free n).1 := by
  induction m generalizing p with
  | zero => simp [FreePort.nextMany]
  | succ m ih => simp [Nat.succ_add, FreePort.nextMany, ih]

@[simp] theorem State.draws_length (s : State) (n : Nat) : (s.draws n).length = n := by
  simp [State.draws]

/-- Every draw is below 2^PROB_W (60_exceptions.md R245). -/
theorem State.draws_lt (s : State) (n : Nat) : ∀ u ∈ s.draws n, u < 2 ^ s.cfg.probW := by
  intro u hu
  obtain ⟨w, -, rfl⟩ := List.mem_map.1 hu
  exact Nat.mod_lt _ (Nat.two_pow_pos _)

/-! ### Channels -/

@[simp] theorem bscFlags_length (v : Word) (us : List Nat) : (bscFlags v us).length = us.length := by
  simp [bscFlags]

@[simp] theorem flipFlagged_length (b f : Bits) : (flipFlagged b f).length = min b.length f.length := by
  simp [flipFlagged]

end Sys2Proof.Machine
end

