-- ==== Sys2Proof/Laws/Channels.lean ====
section
/-! SUPPORT. The two channels: bits inverted where flagged, the Gilbert-Elliott run over a concatenation, and its lengths
(spec 43_bsc.md, 44_gilbert_elliott.md). -/

namespace Sys2Proof.Machine

/-- A received bit is the sent bit xor its flag (43_bsc.md R193). -/
theorem flipFlagged_getElem? (b f : Bits) {k : Nat} (hb : k < b.length) (hf : k < f.length) :
    (flipFlagged b f)[k]? = some (b.getD k false ^^ f.getD k false) := by
  simp [flipFlagged, List.getElem?_zipWith, List.getElem?_eq_getElem hb, List.getElem?_eq_getElem hf]

theorem flipFlagged_append (b b' f f' : Bits) (h : b.length = f.length) :
    flipFlagged (b ++ b') (f ++ f') = flipFlagged b f ++ flipFlagged b' f' :=
  List.zipWith_append h

@[simp] theorem State.geRun_length (s : State) (g : Channel) (us : List Nat) :
    (s.geRun g us).1.length = us.length / 2 :=
  match us with
  | [] => rfl
  | [_] => by simp [State.geRun]
  | ut :: ue :: rest => by
    have ih := s.geRun_length (s.geTransition g ut) rest
    simp only [State.geRun, List.length_cons, ih]
    omega

/-- A run over draws in two parts is a run over the first and then over the second (44_gilbert_elliott.md R214). -/
theorem State.geRun_append (s : State) (g : Channel) (us vs : List Nat) (h : us.length % 2 = 0) :
    s.geRun g (us ++ vs) =
      ((s.geRun g us).1 ++ (s.geRun (s.geRun g us).2 vs).1, (s.geRun (s.geRun g us).2 vs).2) :=
  match us, h with
  | [], _ => by simp [State.geRun]
  | [_], h => by simp at h
  | ut :: ue :: rest, h => by
    have ih := s.geRun_append (s.geTransition g ut) rest vs (by simp only [List.length_cons] at h; omega)
    simp [State.geRun, ih]

/-- A run depends on the state only through the four channel parameters. -/
theorem State.geRun_congr (s t : State) (h1 : t.gePgb = s.gePgb) (h2 : t.gePbg = s.gePbg) (h3 : t.geEg = s.geEg)
    (h4 : t.geEb = s.geEb) (g : Channel) (us : List Nat) : t.geRun g us = s.geRun g us :=
  match us with
  | [] => rfl
  | [_] => rfl
  | ut :: ue :: rest => by
    have ih := State.geRun_congr s t h1 h2 h3 h4 (s.geTransition g ut) rest
    have ht : t.geTransition g ut = s.geTransition g ut := by simp [State.geTransition, h1, h2]
    have he : ∀ g', t.geError g' ue = s.geError g' ue := fun g' => by simp [State.geError, h3, h4]
    simp only [State.geRun, ht, ih, he]

end Sys2Proof.Machine
end

