-- ==== Sys2Proof/Laws/Convolutional.lean ====
section
/-! SUPPORT. The trellis and path_metric_ram: the register after a shift, the entries of a row, and the lengths of what the
encoder and the decoder make (spec 42_convolutional.md). -/

namespace Sys2Proof.Machine

/-! ### Trellis -/

theorem TrellisState.eq_cases (s : TrellisState) : s = 0#2 ∨ s = 1#2 ∨ s = 2#2 ∨ s = 3#2 := by
  revert s
  decide

@[simp] theorem nextState_reg0 (p : TrellisState) (b : Bit) : (nextState p b).reg0 = b := by
  revert p b
  decide

@[simp] theorem nextState_reg1 (p : TrellisState) (b : Bit) : (nextState p b).reg1 = p.reg0 := by
  revert p b
  decide

/-- The transitions into a state are those of its two predecessors with its input bit (42_convolutional.md R154). -/
theorem nextState_eq_iff (p s : TrellisState) (b : Bit) :
    nextState p b = s ↔ b = inputBit s ∧ (p = loPred s ∨ p = hiPred s) := by
  revert p s b
  decide

/-- The two branches out of a state have complementary outputs (42_convolutional.md R161). -/
theorem out_compl (p : TrellisState) (b : Bit) : out0 p (!b) = !out0 p b ∧ out1 p (!b) = !out1 p b := by
  revert p b
  decide

@[simp] theorem convEncode_length (p : TrellisState) (b : Bits) : (convEncode p b).length = 2 * b.length := by
  induction b generalizing p with
  | nil => rfl
  | cons x b ih => simp [convEncode, ih, Nat.mul_succ]

/-! ### path_metric_ram -/

@[simp] theorem PmRow.entry_tabulate (f : TrellisState → PmEntry) (s : TrellisState) :
    (PmRow.tabulate f).entry s = f s := by
  rcases s.eq_cases with rfl | rfl | rfl | rfl <;> rfl

@[simp] theorem nextRow_entry (p : Params) (row : PmRow) (r0 r1 : Bit) (s : TrellisState) :
    (nextRow p row r0 r1).entry s = addCompareSelect p row r0 r1 s :=
  PmRow.entry_tabulate _ _

theorem branchMetric_le (r0 r1 o0 o1 : Bit) : branchMetric r0 r1 o0 o1 ≤ 2 := by
  revert r0 r1 o0 o1
  decide

@[simp] theorem pathMetricRows_length (p : Params) (row : PmRow) (rx : Bits) :
    (pathMetricRows p row rx).length = rx.length / 2 + 1 :=
  match rx with
  | [] => rfl
  | [_] => by simp [pathMetricRows]
  | r0 :: r1 :: rest => by
    have ih := pathMetricRows_length p (nextRow p row r0 r1) rest
    simp only [pathMetricRows, List.length_cons, ih]
    omega

@[simp] theorem traceback_length (rows : List PmRow) (s : TrellisState) (acc : Bits) :
    (traceback rows s acc).length = rows.length + acc.length := by
  induction rows generalizing s acc with
  | nil => simp [traceback]
  | cons row rows ih => simp [traceback, ih, Nat.add_right_comm, Nat.add_assoc]

/-- Traceback puts its bits before those decoded so far. -/
theorem traceback_append (rows : List PmRow) (s : TrellisState) (acc : Bits) :
    traceback rows s acc = traceback rows s [] ++ acc := by
  induction rows generalizing s acc with
  | nil => rfl
  | cons row rows ih =>
    rw [traceback, traceback, ih, ih (row.entry s).pred [inputBit s], List.append_assoc, List.singleton_append]

/-- What traceback does: it walks through states `st`, from the given one back along the stored predecessors, and the bit of
time t is the input bit of the state there (42_convolutional.md R159). The rows come newest first. -/
theorem traceback_states (rows : List PmRow) (s : TrellisState) (acc : Bits) :
    ∃ st : Nat → TrellisState, st rows.length = s ∧
      ∀ t, 1 ≤ t → t ≤ rows.length →
        (∃ row, rows.reverse[t - 1]? = some row ∧ st (t - 1) = (row.entry (st t)).pred) ∧
        (traceback rows s acc)[t - 1]? = some (inputBit (st t)) := by
  induction rows generalizing s acc with
  | nil => exact ⟨fun _ => s, rfl, fun t h1 h2 => absurd h2 (by simp; omega)⟩
  | cons r rows ih =>
    obtain ⟨st, h0, h⟩ := ih (r.entry s).pred (inputBit s :: acc)
    refine ⟨fun t => if t ≤ rows.length then st t else s, by simp, fun t h1 h2 => ?_⟩
    rw [List.length_cons] at h2
    by_cases ht : t ≤ rows.length
    · obtain ⟨⟨row, hr, hp⟩, hb⟩ := h t h1 ht
      refine ⟨⟨row, ?_, ?_⟩, ?_⟩
      · rw [List.reverse_cons, List.getElem?_append_left (by simp; omega)]
        exact hr
      · simpa only [ht, if_true, show t - 1 ≤ rows.length by omega] using hp
      · simpa only [ht, if_true, traceback] using hb
    · obtain rfl : t = rows.length + 1 := by omega
      refine ⟨⟨r, by simp, by simp [h0]⟩, ?_⟩
      rw [traceback, traceback_append]
      simp

end Sys2Proof.Machine
end

