-- ==== Sys2Proof/Laws/Exec.lean ====
section
/-! SUPPORT. What each command can answer (spec 30_encoding.md R96 to R99): one inversion lemma per command, to be cited
instead of unfolding exec. -/

namespace Sys2Proof.Machine

theorem exec_hamEncBlk_next (s t : State) :
    exec .hamEncBlk s = .next t ↔
      (∃ e, firstError [s.capacityCheck, s.blockCheck 4] = some e ∧ t = s.finish e) ∨
      (firstError [s.capacityCheck, s.blockCheck 4] = none ∧
        ∃ d, s.input = some d ∧ t = (s.setOutput (henc d) []).finish .none) := by
  simp only [exec, execHamEncBlk, State.command_next_iff, State.withInput_next_iff]

theorem exec_hamDecBlk_next (s t : State) :
    exec .hamDecBlk s = .next t ↔
      (∃ e, firstError [s.capacityCheck, s.blockCheck 7] = some e ∧ t = s.finish e) ∨
      (firstError [s.capacityCheck, s.blockCheck 7] = none ∧
        ∃ c, s.input = some c ∧
          t = ((s.setOutput (hdec c).1 [correctionFlag (hdec c).2]).countCorrections
            (correctionFlag (hdec c).2).toNat).finish .none) := by
  simp only [exec, execHamDecBlk, State.command_next_iff, State.withInput_next_iff]

theorem exec_hamEncSeq_next (s t : State) :
    exec .hamEncSeq s = .next t ↔
      (∃ e, firstError [s.capacityCheck, s.multipleCheck 4 .lengthError] = some e ∧ t = s.finish e) ∨
      (firstError [s.capacityCheck, s.multipleCheck 4 .lengthError] = none ∧
        ∃ b, s.input = some b ∧ t = (s.setOutput (hencSeq b) []).finish .none) := by
  simp only [exec, execHamEncSeq, State.command_next_iff, State.withInput_next_iff]

theorem exec_hamDecSeq_next (s t : State) :
    exec .hamDecSeq s = .next t ↔
      (∃ e, firstError [s.capacityCheck, s.multipleCheck 7 .lengthError] = some e ∧ t = s.finish e) ∨
      (firstError [s.capacityCheck, s.multipleCheck 7 .lengthError] = none ∧
        ∃ c, s.input = some c ∧
          t = ((s.setOutput (hdecSeqData c) (hdecSeqFlags c)).countCorrections
            (countSet (hdecSeqFlags c))).finish .none) := by
  simp only [exec, execHamDecSeq, State.command_next_iff, State.withInput_next_iff]

theorem exec_hamCntClr_next (s t : State) :
    exec .hamCntClr s = .next t ↔ t = (s.setHamCnt 0#32).finish .none := by
  simp [exec, execHamCntClr, State.command_next_iff]

theorem exec_convEnc_next (s t : State) :
    exec .convEnc s = .next t ↔
      (∃ e, firstError [s.capacityCheck] = some e ∧ t = s.finish e) ∨
      (firstError [s.capacityCheck] = none ∧
        ∃ b, s.input = some b ∧ t = (s.setOutput (convEncode 0#2 b) []).finish .none) := by
  simp only [exec, execConvEnc, State.command_next_iff, State.withInput_next_iff]

theorem exec_vitDec_next (s t : State) :
    exec .vitDec s = .next t ↔
      (∃ e, firstError [s.capacityCheck, s.multipleCheck 2 .invalidLength] = some e ∧ t = s.finish e) ∨
      (firstError [s.capacityCheck, s.multipleCheck 2 .invalidLength] = none ∧
        ∃ rx, s.input = some rx ∧ t = (s.setOutput (viterbi s.cfg rx) []).finish .none) := by
  simp only [exec, execVitDec, State.command_next_iff, State.withInput_next_iff]

theorem exec_bscCfg_next (s t : State) :
    exec .bscCfg s = .next t ↔
      (∃ e, firstError [s.probabilityCheck s.param0] = some e ∧ t = s.finish e) ∨
      (firstError [s.probabilityCheck s.param0] = none ∧ t = (s.setBsc s.param0).finish .none) := by
  simp only [exec, execBscCfg, State.command_next_iff, State.succeed_next_iff]

theorem exec_bscTx_next (s t : State) :
    exec .bscTx s = .next t ↔
      (∃ e, firstError [s.capacityCheck, s.bscConfigured] = some e ∧ t = s.finish e) ∨
      (firstError [s.capacityCheck, s.bscConfigured] = none ∧
        ∃ b, s.input = some b ∧
          t = ((s.afterDraws s.len).setOutput (flipFlagged b (bscFlags s.bscBer (s.draws s.len)))
            (bscFlags s.bscBer (s.draws s.len))).finish .none) := by
  simp only [exec, execBscTx, State.command_next_iff, State.withInput_next_iff]

theorem exec_geCfg_next (s t : State) :
    exec .geCfg s = .next t ↔
      (∃ e, firstError [s.probabilityCheck s.param0, s.probabilityCheck s.param1, s.probabilityCheck s.param2,
          s.probabilityCheck s.param3] = some e ∧ t = s.finish e) ∨
      (firstError [s.probabilityCheck s.param0, s.probabilityCheck s.param1, s.probabilityCheck s.param2,
          s.probabilityCheck s.param3] = none ∧
        t = (s.setGe s.param0 s.param1 s.param2 s.param3).finish .none) := by
  simp only [exec, execGeCfg, State.command_next_iff, State.succeed_next_iff]

theorem exec_geTx_next (s t : State) :
    exec .geTx s = .next t ↔
      (∃ e, firstError [s.capacityCheck, s.geConfigured] = some e ∧ t = s.finish e) ∨
      (firstError [s.capacityCheck, s.geConfigured] = none ∧
        ∃ b, s.input = some b ∧
          t = (((s.afterDraws (2 * s.len)).setOutput (flipFlagged b (s.geRun s.geState (s.draws (2 * s.len))).1)
            (s.geRun s.geState (s.draws (2 * s.len))).1).setGeState
              (s.geRun s.geState (s.draws (2 * s.len))).2).finish .none) := by
  simp only [exec, execGeTx, State.command_next_iff, State.withInput_next_iff]

end Sys2Proof.Machine
end

