-- ==== Sys2Proof/Laws/Memory.lean ====
section
/-! SUPPORT. Reading and writing the memory: a write is read back, leaves every other byte alone and keeps the canonical
form (spec 20_memory.md R68, 10_state.md R38). -/

namespace Sys2Proof.Machine

/-! ### One byte -/

@[simp] theorem Memory.read_nil (x : Nat) : Memory.read [] x = none := rfl

theorem Memory.read_cons (a : Nat) (b : Byte) (rest : Memory) (x : Nat) :
    Memory.read ((a, b) :: rest) x = if x = a then some b else Memory.read rest x := rfl

theorem Memory.read_write (m : Memory) (x y : Nat) (v : Byte) :
    (m.write x v).read y = if y = x then some v else m.read y := by
  induction m with
  | nil => simp [Memory.write, Memory.read_cons]
  | cons c rest ih =>
    obtain ⟨a, b⟩ := c
    simp only [Memory.write]
    split
    · simp only [Memory.read_cons]
    · split
      · subst_vars
        simp only [Memory.read_cons]
        split <;> rfl
      · simp only [Memory.read_cons, ih]
        split
        · subst_vars; rw [if_neg (by omega)]
        · rfl

@[simp] theorem Memory.read_write_self (m : Memory) (x : Nat) (v : Byte) : (m.write x v).read x = some v := by
  simp [Memory.read_write]

theorem Memory.read_write_of_ne (m : Memory) {x y : Nat} (v : Byte) (h : y ≠ x) : (m.write x v).read y = m.read y := by
  simp [Memory.read_write, h]

/-! ### Canonical form -/

/-- The canonical form of a list with a first cell: that cell lies below every other, and the rest is canonical. -/
theorem Memory.wf_cons (a : Nat) (b : Byte) (m : Memory) :
    Memory.wf ((a, b) :: m) = true ↔ (∀ c ∈ m, a < c.1) ∧ Memory.wf m = true := by
  induction m generalizing a b with
  | nil => simp [Memory.wf]
  | cons c rest ih =>
    obtain ⟨a', b'⟩ := c
    simp only [Memory.wf, Bool.and_eq_true, decide_eq_true_eq, List.forall_mem_cons]
    constructor
    · rintro ⟨h, hw⟩
      exact ⟨⟨h, fun c hc => Nat.lt_trans h (((ih a' b').1 hw).1 c hc)⟩, hw⟩
    · rintro ⟨⟨h, -⟩, hw⟩
      exact ⟨h, hw⟩

/-- The cells of a memory after a byte write: the written one, and old ones. -/
theorem Memory.mem_write {m : Memory} {x : Nat} {v : Byte} {c : Host.Cell} (h : c ∈ m.write x v) : c = (x, v) ∨ c ∈ m := by
  induction m with
  | nil => simpa [Memory.write] using h
  | cons d rest ih =>
    obtain ⟨a, b⟩ := d
    simp only [Memory.write] at h
    split at h
    · simpa using h
    · split at h
      · rcases List.mem_cons.1 h with h | h
        · exact .inl h
        · exact .inr (List.mem_cons_of_mem _ h)
      · rcases List.mem_cons.1 h with h | h
        · exact .inr (h ▸ List.mem_cons_self)
        · exact (ih h).imp id (List.mem_cons_of_mem _)

/-- A byte write keeps the canonical form. -/
theorem Memory.wf_write {m : Memory} (x : Nat) (v : Byte) (h : m.wf = true) : (m.write x v).wf = true := by
  induction m with
  | nil => rfl
  | cons d rest ih =>
    obtain ⟨a, b⟩ := d
    obtain ⟨hlt, hw⟩ := (Memory.wf_cons a b rest).1 h
    simp only [Memory.write]
    split
    · rename_i hx
      refine (Memory.wf_cons _ _ _).2 ⟨fun c hc => ?_, h⟩
      rcases List.mem_cons.1 hc with rfl | hc
      · exact hx
      · exact Nat.lt_trans hx (hlt c hc)
    · split
      · rename_i hx
        exact (Memory.wf_cons _ _ _).2 ⟨hx ▸ hlt, hw⟩
      · rename_i h1 h2
        refine (Memory.wf_cons _ _ _).2 ⟨fun c hc => ?_, ih hw⟩
        rcases Memory.mem_write hc with rfl | hc
        · exact Nat.lt_of_le_of_ne (Nat.le_of_not_lt h1) (Ne.symm h2)
        · exact hlt c hc

/-- In canonical form, the listed cells are exactly the bytes that read as written. -/
theorem Memory.read_eq_some_iff {m : Memory} (h : m.wf = true) (x : Nat) (v : Byte) : m.read x = some v ↔ (x, v) ∈ m := by
  induction m with
  | nil => simp
  | cons d rest ih =>
    obtain ⟨a, b⟩ := d
    obtain ⟨hlt, hw⟩ := (Memory.wf_cons a b rest).1 h
    rw [Memory.read_cons]
    split
    · rename_i hx
      subst hx
      constructor
      · rintro ⟨⟩; exact List.mem_cons_self
      · intro hm
        rcases List.mem_cons.1 hm with hm | hm
        · simp only [Prod.mk.injEq, true_and] at hm; rw [hm]
        · exact absurd (hlt _ hm) (Nat.lt_irrefl _)
    · rename_i hx
      rw [ih hw]
      simp [hx]

/-! ### Words -/

/-- The bytes of a memory after a word write. -/
theorem Memory.read_writeWord (m : Memory) (a y : Nat) (v : Word) :
    (m.writeWord a v).read y =
      if y = a then some (v.extractLsb' 24 8)
      else if y = a + 1 then some (v.extractLsb' 16 8)
      else if y = a + 2 then some (v.extractLsb' 8 8)
      else if y = a + 3 then some (v.extractLsb' 0 8)
      else m.read y := by
  simp only [Memory.writeWord, Memory.read_write]
  split_ifs <;> first | rfl | omega

/-- The four bytes of a word, most significant first, make the word. -/
theorem word_of_bytes (v : Word) :
    (v.extractLsb' 24 8 ++ v.extractLsb' 16 8 ++ v.extractLsb' 8 8 ++ v.extractLsb' 0 8 : BitVec 32) = v := by
  apply BitVec.eq_of_getLsbD_eq
  intro i hi
  simp only [BitVec.getLsbD_append, BitVec.getLsbD_extractLsb']
  split_ifs with h1 h2 h3
  · simp [h1]
  · simp only [show i - 8 < 8 by omega, decide_true, Bool.true_and]; congr 1; omega
  · simp only [show i - 8 - 8 < 8 by omega, decide_true, Bool.true_and]; congr 1; omega
  · simp only [show i - 8 - 8 - 8 < 8 by omega, decide_true, Bool.true_and]; congr 1; omega

/-- A word written is the word read back (20_memory.md R61). -/
@[simp] theorem Memory.readWord_writeWord_self (m : Memory) (a : Nat) (v : Word) :
    (m.writeWord a v).readWord a = some v := by
  have h1 : a + 1 ≠ a := by omega
  have h2 : a + 2 ≠ a ∧ a + 2 ≠ a + 1 := by omega
  have h3 : a + 3 ≠ a ∧ a + 3 ≠ a + 1 ∧ a + 3 ≠ a + 2 := by omega
  simp only [Memory.readWord, Memory.read_writeWord, h1, h2, h3, if_true, if_false, Option.some.injEq]
  exact word_of_bytes v

/-- A word write leaves every byte outside the word alone. -/
theorem Memory.read_writeWord_of_outside (m : Memory) {a y : Nat} (v : Word) (h : y < a ∨ a + 4 ≤ y) :
    (m.writeWord a v).read y = m.read y := by
  rw [Memory.read_writeWord]
  split_ifs <;> first | rfl | omega

/-- A word write leaves every word that does not overlap it alone. -/
theorem Memory.readWord_writeWord_of_apart (m : Memory) {a b : Nat} (v : Word) (h : b + 4 ≤ a ∨ a + 4 ≤ b) :
    (m.writeWord a v).readWord b = m.readWord b := by
  simp only [Memory.readWord]
  rw [m.read_writeWord_of_outside v (y := b) (by omega), m.read_writeWord_of_outside v (y := b + 1) (by omega),
    m.read_writeWord_of_outside v (y := b + 2) (by omega), m.read_writeWord_of_outside v (y := b + 3) (by omega)]

/-- A word write keeps the canonical form. -/
theorem Memory.wf_writeWord {m : Memory} (a : Nat) (v : Word) (h : m.wf = true) : (m.writeWord a v).wf = true :=
  wf_write _ _ (wf_write _ _ (wf_write _ _ (wf_write _ _ h)))

/-- The cells of a memory after a word write: four new ones, and old ones. -/
theorem Memory.mem_writeWord {m : Memory} {a : Nat} {v : Word} {c : Host.Cell} (h : c ∈ m.writeWord a v) :
    (a ≤ c.1 ∧ c.1 < a + 4) ∨ c ∈ m := by
  have bound : ∀ {x : Nat} {b : Byte}, c = (x, b) → a ≤ x → x < a + 4 → (a ≤ c.1 ∧ c.1 < a + 4) := by
    rintro x b rfl h1 h2; exact ⟨h1, h2⟩
  rcases Memory.mem_write h with h | h
  · exact .inl (bound h (by omega) (by omega))
  · rcases Memory.mem_write h with h | h
    · exact .inl (bound h (by omega) (by omega))
    · rcases Memory.mem_write h with h | h
      · exact .inl (bound h (by omega) (by omega))
      · rcases Memory.mem_write h with h | h
        · exact .inl (bound h (by omega) (by omega))
        · exact .inr h

/-- A word has a value exactly when its four bytes have one. -/
theorem Memory.readWord_isSome_iff (m : Memory) (a : Nat) :
    (m.readWord a).isSome = true ↔
      (m.read a).isSome = true ∧ (m.read (a + 1)).isSome = true ∧ (m.read (a + 2)).isSome = true ∧
        (m.read (a + 3)).isSome = true := by
  cases h0 : m.read a <;> cases h1 : m.read (a + 1) <;> cases h2 : m.read (a + 2) <;> cases h3 : m.read (a + 3) <;>
    simp [Memory.readWord, *]

end Sys2Proof.Machine
end

