-- ==== Sys2Proof/Laws/Operands.lean ====
section
/-! SUPPORT. The derived parameters are what spec 00_scope.md R6 says. -/

namespace Sys2Proof

/-- 2*T_MAX is below INF, so no finite path metric reaches it (00_scope.md R6, 42_convolutional.md R157). -/
theorem Params.two_tMax_lt_inf (p : Params) : 2 * p.tMax < p.inf := by
  have h : 2 * p.tMax + 1 < 2 ^ (Nat.log2 (2 * p.tMax + 1) + 1) := Nat.lt_log2_self
  unfold Params.inf Params.pmW
  omega

/-- No smaller width has an INF above 2*T_MAX (00_scope.md R6). -/
theorem Params.pmW_smallest (p : Params) (w : Nat) (h : 2 * p.tMax < 2 ^ w - 1) : p.pmW ≤ w := by
  have h' : 2 * p.tMax + 1 < 2 ^ w := by omega
  exact (Nat.log2_lt (by omega)).2 h'

end Sys2Proof
end

