-- ==== Sys2Proof/Laws/PerInstr.lean ====
section
/-! SUPPORT. Statements made per command: every command's word is a legal command word (spec 30_encoding.md R91, R94), and
no two commands share an opcode. -/

namespace Sys2Proof.Laws.LegalWord

/-- No two commands share an opcode (30_encoding.md R91). -/
theorem opcodeOf_injective {i j : Instr} (h : opcodeOf j = opcodeOf i) : j = i := by
  cases i <;> cases j <;> first | rfl | exact absurd h (by decide)

/-- The word of a command is legal, and any command with the same opcode is that command. -/
def Statement (i : Instr) : Prop :=
  i.wf = true ∧ commandWordWf (encode i) = true ∧ ∀ j : Instr, opcodeOf j = opcodeOf i → j = i

theorem hamEncBlk : Statement .hamEncBlk := ⟨rfl, by decide, fun _ => opcodeOf_injective⟩
theorem hamDecBlk : Statement .hamDecBlk := ⟨rfl, by decide, fun _ => opcodeOf_injective⟩
theorem hamEncSeq : Statement .hamEncSeq := ⟨rfl, by decide, fun _ => opcodeOf_injective⟩
theorem hamDecSeq : Statement .hamDecSeq := ⟨rfl, by decide, fun _ => opcodeOf_injective⟩
theorem hamCntClr : Statement .hamCntClr := ⟨rfl, by decide, fun _ => opcodeOf_injective⟩
theorem convEnc : Statement .convEnc := ⟨rfl, by decide, fun _ => opcodeOf_injective⟩
theorem vitDec : Statement .vitDec := ⟨rfl, by decide, fun _ => opcodeOf_injective⟩
theorem bscCfg : Statement .bscCfg := ⟨rfl, by decide, fun _ => opcodeOf_injective⟩
theorem bscTx : Statement .bscTx := ⟨rfl, by decide, fun _ => opcodeOf_injective⟩
theorem geCfg : Statement .geCfg := ⟨rfl, by decide, fun _ => opcodeOf_injective⟩
theorem geTx : Statement .geTx := ⟨rfl, by decide, fun _ => opcodeOf_injective⟩

end Sys2Proof.Laws.LegalWord
end

