-- ==== Sys2Proof/Laws/Safety.lean ====
section
/-! SUPPORT. The claims' terms in terms of the operations: how a completion ends, blocks and distances of bit sequences, the
draws of a state. -/

namespace Sys2Proof.Machine

theorem State.finish_eq_endedWith (s : State) (e : ErrCode) : s.finish e = endedWith s e := rfl

/-! ### Blocks and distances -/

/-- The first block of a sequence that begins with one. -/
theorem block_append_zero (pre x : Bits) {n : Nat} (h : pre.length = n) : block (pre ++ x) n 0 = pre := by
  simp [block, ← h]

/-- The later blocks of a sequence that begins with one are the blocks of the rest. -/
theorem block_append_succ (pre x : Bits) {n : Nat} (g : Nat) (h : pre.length = n) :
    block (pre ++ x) n (g + 1) = block x n g := by
  have e : n * (g + 1) = pre.length + n * g := by rw [h, Nat.mul_succ, Nat.add_comm]
  simp [block, e, List.drop_append, List.drop_eq_nil_of_le]

theorem distance_append (a b c d : Bits) (h : a.length = b.length) :
    distance (a ++ c) (b ++ d) = distance a b + distance c d := by
  induction a generalizing b with
  | nil => cases b <;> simp_all [distance]
  | cons x a ih =>
    cases b with
    | nil => simp at h
    | cons y b => simp [distance, ih b (by simpa using h), Nat.add_assoc]

@[simp] theorem distance_self (a : Bits) : distance a a = 0 := by
  induction a with
  | nil => rfl
  | cons x a ih => simp [distance, ih]

/-! ### Draws -/

/-- The draws a transmission takes, one by one. -/
theorem State.draws_getElem? (s : State) (n k : Nat) : (s.draws n)[k]? = if k < n then some (drawAt s k) else none := by
  rw [State.draws, List.getElem?_map, FreePort.nextMany_getElem?]
  split <;> rfl

/-- The draws of a state are its first draws, in order. -/
theorem State.draws_eq_map (s : State) (n : Nat) : s.draws n = (List.range n).map (drawAt s) := by
  apply List.ext_getElem?
  intro k
  rw [State.draws_getElem?, List.getElem?_map]
  split
  · rw [List.getElem?_range ‹_›]; rfl
  · rw [List.getElem?_eq_none (by simpa using ‹¬ k < n›)]; rfl

/-- After `n` draws the stream goes on `n` places later. -/
theorem drawAt_afterDraws (s : State) (n k : Nat) : drawAt (s.afterDraws n) k = drawAt s (n + k) := by
  simp only [drawAt, portWord, State.afterDraws_entropy, State.afterDraws_cfg, FreePort.nextMany_snd, List.getD,
    List.getElem?_drop, Nat.add_assoc]

end Sys2Proof.Machine
end

