-- ==== Sys2Proof/Laws/Step.lean ====
section
/-! SUPPORT. What a step of the machine can do, said once (spec 30_encoding.md R96, 20_memory.md R73, 70_reset_and_hazards.md
R260), and what a host step leaves alone. -/

namespace Sys2Proof.Machine

/-- What the core's step can do: nothing, end an illegal word, or run the command a word decodes to. -/
theorem coreStep_next_cases {s t : State} (h : coreStep s = .next t) :
    (s.pending = none ∧ t = s) ∨
    (∃ w e, s.pending = some w ∧ decode w = .error e ∧ t = s.finish .illegalCommand) ∨
    ∃ w i, s.pending = some w ∧ decode w = .ok i ∧ exec i s = .next t := by
  unfold coreStep at h
  split at h
  · rename_i w hp
    unfold completeWord at h
    split at h
    · exact .inr (.inr ⟨w, _, hp, ‹_›, h⟩)
    · simp only [State.raise, Host.Outcome.next.injEq] at h
      exact .inr (.inl ⟨w, _, hp, ‹_›, h.symm⟩)
  · simp only [Host.Outcome.next.injEq] at h
    exact .inl ⟨‹_›, h.symm⟩

/-! ### Turns -/

theorem State.afterTurn_of_nil {s : State} (h : s.schedule = []) :
    s.afterTurn = { s with schedule := Config.freeTurns s.refills, refills := s.refills + 1 } := by
  simp [State.afterTurn, h]

theorem State.afterTurn_of_cons {s : State} {x : Turn} {rest : List Turn} (h : s.schedule = x :: rest) :
    s.afterTurn = { s with schedule := rest } := by
  simp [State.afterTurn, h]

/-- The core moves where its turn is forced, or none is and a word is pending. -/
theorem State.nextTurn_core_iff (s : State) :
    s.nextTurn = .core ↔ s.schedule.head? = some .core ∨ s.schedule = [] ∧ s.pending ≠ none := by
  cases h : s.schedule <;> cases hp : s.pending <;> simp [State.nextTurn, State.defaultTurn, h, hp]

/-- The host moves where its turn is forced, or none is and nothing is pending. -/
theorem State.nextTurn_host_iff (s : State) :
    s.nextTurn = .host ↔ s.schedule.head? = some .host ∨ s.schedule = [] ∧ s.pending = none := by
  cases h : s.schedule <;> cases hp : s.pending <;> simp [State.nextTurn, State.defaultTurn, h, hp]

/-- Hardware reset moves only where its turn is forced. -/
theorem State.nextTurn_reset_iff (s : State) : s.nextTurn = .reset ↔ s.schedule.head? = some .reset := by
  cases h : s.schedule <;> cases hp : s.pending <;> simp [State.nextTurn, State.defaultTurn, h, hp]

/-- A step uses up one turn and is the core's, the host's or the reset's step. -/
theorem step_next_cases {s t : State} (h : step s = .next t) :
    (s.nextTurn = .core ∧ coreStep s.afterTurn = .next t) ∨ (s.nextTurn = .host ∧ hostStep s.afterTurn = .next t) ∨
      (s.nextTurn = .reset ∧ t = s.afterTurn.hardwareReset) := by
  rw [step, agentStep] at h
  cases hn : s.nextTurn <;> rw [hn] at h
  · exact .inl ⟨rfl, h⟩
  · exact .inr (.inl ⟨rfl, h⟩)
  · exact .inr (.inr ⟨rfl, (Host.Outcome.next.inj h).symm⟩)

/-! ### The host's step -/

/-- What a host step leaves alone, and the two things it can do to STATUS, PENDING and IBUF: a CMD write issues, an IBUF
write stores one word. -/
theorem hostStep_frame {s t : State} (h : hostStep s = .next t) :
    (t.out = s.out ∧ t.flags = s.flags ∧ t.hamCnt = s.hamCnt ∧ t.geState = s.geState ∧ t.cfg = s.cfg ∧
      t.entropy = s.entropy ∧ t.schedule = s.schedule ∧ t.refills = s.refills) ∧
    (t.bscBer = s.bscBer ∧ t.bscValid = s.bscValid ∧ t.gePgb = s.gePgb ∧ t.gePbg = s.gePbg ∧ t.geEg = s.geEg ∧
      t.geEb = s.geEb ∧ t.geValid = s.geValid) ∧
    ((t.busy = s.busy ∧ t.done = s.done ∧ t.err = s.err ∧ t.pending = s.pending) ∨
      (t.busy = true ∧ t.done = false ∧ t.err = .none ∧ ∃ v, t.pending = some v)) ∧
    (t.mem = s.mem ∨ ∃ k v, k < s.cfg.ibufBits / 32 ∧ t.mem = s.mem.writeWord (ibufBase + 4 * k) v) := by
  rcases hostStep_next h with ⟨a, rfl⟩ | ⟨ad, w, v, u, a, hw, rfl⟩ | ⟨ad, w, v, u, a, hr, rfl⟩
  · simp
  · obtain ⟨-, ⟨r, -, hr⟩ | ⟨k, -, hk, rfl⟩⟩ := busWrite_ok hw
    · cases r <;> simp only [State.regWrite, Option.some.injEq, reduceCtorEq] at hr <;> subst hr <;> simp
    · simp only [State.setHost_mem, State.setMem_mem]
      exact ⟨by simp, by simp, by simp, .inr ⟨k, v, hk, rfl⟩⟩
  · rcases busRead_ok hr with rfl | rfl <;> simp

end Sys2Proof.Machine
end

