-- ==== Sys2Proof/Tests/Slice0.lean ====
section
/-! SUPPORT. Small tests: ill-formed data is refused, words written out bit by bit decode, and one step of each command and
of the host gives what the spec's own tables give (95_test_vectors.md); then a witness for the hypotheses of each
statement. -/

namespace Sys2Proof.Tests

open Sys2Proof.Machine

/-! ### Helpers -/

/-- The next state of an outcome, if it has one. -/
def nextOf (r : Result) : Option State :=
  match r with
  | .next t => some t
  | _ => none

/-- The fault of an outcome, if it is one. -/
def faultOf (r : Result) : Option Fault :=
  match r with
  | .fault f => some f
  | _ => none

/-- The result of a host access: the fault, or the word read. -/
def readOf (r : Except Fault (Word × State)) : Fault ⊕ Word :=
  match r with
  | .ok (v, _) => .inr v
  | .error f => .inl f

/-- The fault of a host write, if it faults. -/
def writeFault (r : Except Fault State) : Option Fault :=
  match r with
  | .ok _ => none
  | .error f => some f

/-- A bit sequence from its digits, most significant first: the lowest `n` bits of a number. -/
def bitsOf (n v : Nat) : Bits := (List.range n).map fun i => v.testBit (n - 1 - i)

/-- The state after reset, with a first word in IBUF and an IN_LEN. -/
def loaded (w n : Word) : State := { State.reset with mem := Memory.writeWord [] 0x100000 w, inLen := n }

/-- The channel of 95_test_vectors.md B2 with the draws of B3, and an input loaded. -/
def bscLoaded (w n : Word) : State :=
  { loaded w n with
    bscBer := 0x40000000#32
    bscValid := true
    entropy := { queue := [0x3FFFFFFF#32, 0x40000000#32, 0x00000000#32, 0x7FFFFFFF#32], taken := 0 } }

/-- The channel of 95_test_vectors.md E1 in a channel state, with an input and draws loaded. -/
def geLoaded (g : Channel) (w n : Word) (draws : List Word) : State :=
  { loaded w n with
    gePgb := 0x20000000#32
    gePbg := 0x40000000#32
    geEb := 0x80000000#32
    geState := g
    geValid := true
    entropy := { queue := draws, taken := 0 } }

/-- A state in which a command word is pending. -/
def pendingIn (s : State) (w : Word) : State := s.withFetchWord 32 w.toNat

/-- The state after reset with a host program in place. -/
def hosting (ops : List HostOp) : State := State.reset.withProgram ops

/-! ### Well-formedness (00_scope.md R6; 30_encoding.md R91, R92, R94). No Instr is ill formed: none has a field. -/

theorem test_params_wf :
    Params.default.wf = true ∧ ({ ibufBits := 32, probW := 1 } : Params).wf = true ∧
      ({ ibufBits := 4194304, probW := 31 } : Params).wf = true := by decide

theorem test_params_refused :
    ({ ibufBits := 0, probW := 31 } : Params).wf = false ∧ ({ ibufBits := 48, probW := 31 } : Params).wf = false ∧
      ({ ibufBits := 4194336, probW := 31 } : Params).wf = false ∧
      ({ ibufBits := 4096, probW := 0 } : Params).wf = false ∧
      ({ ibufBits := 4096, probW := 32 } : Params).wf = false := by decide

theorem test_command_word_refused :
    commandWordWf 0x00000000#32 = false ∧ commandWordWf 0x0000000C#32 = false ∧ commandWordWf 0x00000011#32 = false ∧
      commandWordWf 0x80000001#32 = false ∧ commandWordWf 0x00000001#32 = true ∧ commandWordWf 0x0000000B#32 = true := by
  decide

theorem test_probability_refused :
    probabilityWf Params.default 0x80000001#32 = false ∧ probabilityWf Params.default 0x80000000#32 = true := by decide

/-! ### Decoding (30_encoding.md R91, R94): CMD[31:4] = 0, then the four opcode bits of the table -/

theorem test_decode_ham_enc_blk : decode 0b0000000000000000000000000000_0001#32 = .ok .hamEncBlk := rfl
theorem test_decode_ham_dec_blk : decode 0b0000000000000000000000000000_0010#32 = .ok .hamDecBlk := rfl
theorem test_decode_ham_enc_seq : decode 0b0000000000000000000000000000_0011#32 = .ok .hamEncSeq := rfl
theorem test_decode_ham_dec_seq : decode 0b0000000000000000000000000000_0100#32 = .ok .hamDecSeq := rfl
theorem test_decode_ham_cnt_clr : decode 0b0000000000000000000000000000_0101#32 = .ok .hamCntClr := rfl
theorem test_decode_conv_enc : decode 0b0000000000000000000000000000_0110#32 = .ok .convEnc := rfl
theorem test_decode_vit_dec : decode 0b0000000000000000000000000000_0111#32 = .ok .vitDec := rfl
theorem test_decode_bsc_cfg : decode 0b0000000000000000000000000000_1000#32 = .ok .bscCfg := rfl
theorem test_decode_bsc_tx : decode 0b0000000000000000000000000000_1001#32 = .ok .bscTx := rfl
theorem test_decode_ge_cfg : decode 0b0000000000000000000000000000_1010#32 = .ok .geCfg := rfl
theorem test_decode_ge_tx : decode 0b0000000000000000000000000000_1011#32 = .ok .geTx := rfl

theorem test_decode_rejects :
    decode 0x00000000#32 = .error .reservedOpcode ∧ decode 0x0000000C#32 = .error .reservedOpcode ∧
      decode 0x0000000F#32 = .error .reservedOpcode ∧ decode 0x00000011#32 = .error .reservedBits ∧
      decode 0x80000001#32 = .error .reservedBits := ⟨rfl, rfl, rfl, rfl, rfl⟩

theorem test_table_word : decodeTableWord 32 11 = some .geTx ∧ decodeTableWord 32 12 = none := ⟨rfl, rfl⟩

/-! ### Hamming commands (95_test_vectors.md 2.1) -/

/-- Table 2.1.1: block 1011. -/
theorem test_ham_enc_blk :
    (nextOf (exec .hamEncBlk (loaded 0xB0000000#32 4#32))).map (·.out) = some (bitsOf 7 0b0110011) := by decide

/-- Table 2.1.1: block 0010. -/
theorem test_ham_enc_blk_order :
    (nextOf (exec .hamEncBlk (loaded 0x20000000#32 4#32))).map (·.out) = some (bitsOf 7 0b0101010) := by decide

/-- Table 2.1.4: 0110111 with HAM_CNT = 0xFFFF_FFFF. -/
theorem test_ham_dec_blk_wraps :
    (nextOf (exec .hamDecBlk { loaded 0x6E000000#32 7#32 with hamCnt := 0xFFFFFFFF#32 })).map
      (fun t => (t.out, t.flags, t.hamCnt)) = some (bitsOf 4 0b1011, [true], 0#32) := by decide

/-- Table 2.1.3: positions 1 and 2 flipped are miscorrected. -/
theorem test_ham_dec_blk_double :
    (nextOf (exec .hamDecBlk (loaded 0xA6000000#32 7#32))).map (fun t => (t.out, t.flags)) =
      some (bitsOf 4 0b0011, [true]) := by decide

/-- Table 2.1.4: the text "AB". -/
theorem test_ham_enc_seq :
    (nextOf (exec .hamEncSeq (loaded 0x41420000#32 16#32))).map (·.out) = some (bitsOf 28 0x99A662A) := by decide

/-- Table 2.1.4: 6 bits are no multiple of 4. -/
theorem test_ham_enc_seq_length :
    (nextOf (exec .hamEncSeq (loaded 0x41420000#32 6#32))).map (·.err) = some .lengthError := by decide

/-- Table 2.1.4: block 1 has position 7 flipped, block 3 position 1. -/
theorem test_ham_dec_seq :
    (nextOf (exec .hamDecSeq (loaded 0x99A266A0#32 28#32))).map (fun t => (t.out, t.flags, t.hamCnt)) =
      some (bitsOf 16 0x4142, [false, true, false, true], 2#32) := by decide

/-- Table 2.1.4: an empty input. -/
theorem test_ham_dec_seq_empty :
    (nextOf (exec .hamDecSeq State.reset)).map (fun t => (t.err, t.out, t.hamCnt)) = some (.none, [], 0#32) := by decide

/-- V10 of section 2.5: no capacity check. -/
theorem test_ham_cnt_clr :
    (nextOf (exec .hamCntClr { loaded 0#32 0xFFFFFFFF#32 with hamCnt := 3#32 })).map (fun t => (t.err, t.hamCnt)) =
      some (.none, 0#32) := by decide

/-! ### Convolutional code (95_test_vectors.md 2.2) -/

/-- Table 2.2.1: 1100101. -/
theorem test_conv_enc :
    (nextOf (exec .convEnc (loaded 0xCA000000#32 7#32))).map (·.out) = some (bitsOf 14 0b11010111111000) := by decide

/-- V14 of section 2.5: bit 32 lies in a word that was never written. -/
theorem test_conv_enc_unwritten :
    faultOf (exec .convEnc (loaded 0xCA000000#32 33#32)) = some .uninitializedInput := by decide

/-- Table 2.2.4: the lower predecessor wins each tie. -/
theorem test_vit_dec_tie :
    (nextOf (exec .vitDec (loaded 0x45000000#32 10#32))).map (·.out) = some (bitsOf 5 0b00000) := by decide

/-- Table 2.2.3: index 6 flipped, and the lower final state wins the tie. -/
theorem test_vit_dec_last_symbol :
    (nextOf (exec .vitDec (loaded 0xE3000000#32 8#32))).map (·.out) = some (bitsOf 4 0b1010) := by decide

/-! ### Channels (95_test_vectors.md 2.3, 2.4) -/

/-- B2. -/
theorem test_bsc_cfg :
    (nextOf (exec .bscCfg { State.reset with param0 := 0x40000000#32 })).map (fun t => (t.bscBer, t.statusWord)) =
      some (0x40000000#32, 0x06#32) := by decide

/-- B4: the older configuration stays. -/
theorem test_bsc_cfg_illegal :
    (nextOf (exec .bscCfg { bscLoaded 0#32 0#32 with param0 := 0x80000001#32 })).map
      (fun t => (t.bscBer, t.statusWord)) = some (0x40000000#32, 0x46#32) := by decide

/-- B3. -/
theorem test_bsc_tx :
    (nextOf (exec .bscTx (bscLoaded 0xA0000000#32 4#32))).map (fun t => (t.out, t.flags, t.entropy.taken)) =
      some (bitsOf 4 0b0000, bitsOf 4 0b1010, 4) := by decide

/-- V6 of section 2.5: the capacity check comes before NotConfigured, and takes no draw. -/
theorem test_bsc_tx_checks :
    (nextOf (exec .bscTx (loaded 0#32 4097#32))).map (fun t => (t.statusWord, t.entropy.taken)) =
      some (0x62#32, 0) := by decide

/-- E1, with eGood = 1 in place of 0, from a channel in Bad (E2). -/
theorem test_ge_cfg :
    (nextOf (exec .geCfg { geLoaded .bad 0#32 0#32 [] with
        geValid := false, param0 := 0x20000000#32, param1 := 0x40000000#32, param2 := 1#32, param3 := 0x80000000#32 })).map
      (fun t => [t.gePgb, t.gePbg, t.geEg, t.geEb, 0#31 ++ BitVec.ofBool t.geState.bit, t.statusWord]) =
      some [0x20000000#32, 0x40000000#32, 1#32, 0x80000000#32, 0#32, 0x0A#32] := by decide

/-- E3: one illegal parameter leaves all of them, and the channel state. -/
theorem test_ge_cfg_illegal :
    (nextOf (exec .geCfg { geLoaded .bad 0#32 0#32 [] with param0 := 1#32, param1 := 0x80000001#32 })).map
      (fun t => (t.err, t.gePgb, t.geState)) = some (.invalidChannelParams, 0x20000000#32, .bad) := by decide

/-- G2: two adjacent errors, and the draw 0x4000_0000 does not leave Bad. -/
theorem test_ge_tx :
    (nextOf (exec .geTx (geLoaded .good 0xE1000000#32 8#32
      [0x7FFFFFFF#32, 0#32, 0x10000000#32, 0x7FFFFFFF#32, 0x40000000#32, 0x12345678#32, 0#32, 0#32,
        0x7FFFFFFF#32, 0#32, 0x7FFFFFFF#32, 0#32, 0x7FFFFFFF#32, 0#32, 0x7FFFFFFF#32, 0#32]))).map
      (fun t => (t.out, t.flags, t.geState)) = some (bitsOf 8 0b10000001, bitsOf 8 0b01100000, .good) := by decide

/-- P5, step 4: the first fragment ends in Bad. -/
theorem test_ge_tx_keeps_state :
    (nextOf (exec .geTx (geLoaded .good 0xC0000000#32 2#32
      [0x7FFFFFFF#32, 0#32, 0x10000000#32, 0x7FFFFFFF#32]))).map (fun t => (t.out, t.geState, t.entropy.taken)) =
      some (bitsOf 2 0b10, .bad, 4) := by decide

/-! ### Host accesses (95_test_vectors.md 2.6) and the host program (30_encoding.md R102) -/

/-- M1, M2, M3. -/
theorem test_read_constants :
    readOf (busRead 0x044 4 State.reset) = .inr 0x46454301#32 ∧ readOf (busRead 0x048 4 State.reset) = .inr 0x1000#32 ∧
      readOf (busRead 0x04C 4 State.reset) = .inr 0x1F#32 := by decide

/-- M4, M6, M7, M8, M10, M12. -/
theorem test_read_faults :
    readOf (busRead 0x000 4 State.reset) = .inl .busError ∧ readOf (busRead 0x050 4 State.reset) = .inl .busError ∧
      readOf (busRead 0x100002 4 State.reset) = .inl .busError ∧ readOf (busRead 0x004 2 State.reset) = .inl .busError ∧
      readOf (busRead 0x100000 4 State.reset) = .inl .uninitializedInput ∧
      readOf (busRead 0x100200 4 State.reset) = .inl .busError := by decide

/-- M5, M9, M15. -/
theorem test_write_faults :
    writeFault (busWrite 0x004 4 0#32 State.reset) = some .busError ∧
      writeFault (busWrite 0x200000 4 0#32 State.reset) = some .busError ∧
      writeFault (busWrite 0x008 4 0#32 (pendingIn State.reset 1#32)) = some .hostAccessWhileBusy := by decide

/-- M11: the word written to IBUF word 127, the last one, is the word read. -/
theorem test_ibuf_reads_back :
    (busWrite 0x1001FC 4 0x12345678#32 State.reset).toOption.map (fun t => readOf (busRead 0x1001FC 4 t)) =
      some (.inr 0x12345678#32) := by decide

/-- M14: seven valid bits, then any-value bits, here queued as all ones. -/
theorem test_obuf_tail :
    readOf (busRead 0x200000 4 { State.reset with
      out := bitsOf 7 0b0110011, anyBits := { queue := [0xFFFFFFFF#32], taken := 0 } }) = .inr 0x67FFFFFF#32 := by decide

/-- M16: sequence bits 0 and 31. -/
theorem test_bit_order :
    (loaded 0x80000001#32 32#32).input = some (true :: List.replicate 30 false ++ [true]) := by decide

/-- STATUS between issue and completion (section 2.5). -/
theorem test_status_while_busy : readOf (busRead 0x004 4 (pendingIn State.reset 12#32)) = .inr 1#32 := by decide

/-- V1: the word 0 is IllegalCommand. -/
theorem test_illegal_status :
    (nextOf (step (pendingIn State.reset 0#32))).map (·.statusWord) = some 0x52#32 := by decide

/-- CHECK with a mask and without one, where the mask is 0xFFFF_FFFF. -/
theorem test_check_default_mask :
    assemble [.check (.named 0) 7#32 none, .check (.named 0) 7#32 (some 3#32)] =
      some [.check (.named 0) 7#32 0xFFFFFFFF#32, .check (.named 0) 7#32 3#32] := by decide

/-- RUN, a label, COPY, IF and HALT. -/
theorem test_assemble :
    assemble [.run .vitDec, .label 7, .copy 1, .ifGoto (.named 0) 0xF0#32 7, .halt] =
      some [.write 0x000 4 (.imm 7#32), .read 0x004 4 .scratch, .branchIf .scratch 1#32 1,
        .read 0x200000 4 .scratch, .write 0x100000 4 (.var .scratch), .branchIf (.named 0) 0xF0#32 3, .halt] := by
  decide

/-- A CHECK compares the masked bits only. -/
theorem test_check_mask :
    (nextOf (hostStep { hosting [.check (.named 0) 0x66000000#32 0xFE000000#32] with
      host := { program := [.check (.named 0) 0x66000000#32 0xFE000000#32], pc := 0,
                vars := [(.named 0, 0x67FFFFFF#32)], checkFailed := false } })).map
      (fun t => (t.host.pc, t.host.checkFailed)) = some (1, false) := by decide

/-- The core's turn after the host's CMD write completes the command. -/
theorem test_issue_then_complete :
    (nextOf (Host.Core.run Sys2Proof.core 2
      { State.reset with host := { program := [.write 0x000 4 (.imm 5#32), .halt], pc := 0, vars := [],
                                   checkFailed := false }, hamCnt := 9#32, schedule := [.host, .core] })).map
      (fun t => (t.hamCnt, t.statusWord, t.host.pc)) = some (0#32, 2#32, 1) := by decide

/-- A command may take any time: a host that polls between issue and completion reads BUSY = 1 (70_reset_and_hazards.md R270). -/
theorem test_poll_before_completion :
    (nextOf (Host.Core.run Sys2Proof.core 2
      { State.reset with host := { program := [.write 0x000 4 (.imm 5#32), .read 0x004 4 .scratch, .halt], pc := 0,
                                   vars := [], checkFailed := false }, schedule := [.host, .host, .core] })).map
      (fun t => (t.host.value .scratch, t.schedule)) = some (some 1#32, [.core]) := by decide

/-! ### Witnesses: a state and operands that meet the hypotheses of each statement, one for each of its clauses -/

theorem witness_StepRunsTheDecodedCommand :
    (∃ (s : State) (w : Word) (i : Instr), s.pending = some w ∧ decode w = .ok i ∧ s.schedule = []) ∧
    (∃ (s : State) (w : Word) (i : Instr) (rest : List Turn), s.pending = some w ∧ decode w = .ok i ∧ s.schedule = .core :: rest) ∧
    ∃ i, decodeTableWord 32 11 = some i :=
  ⟨⟨{ pendingIn State.reset 6#32 with schedule := [] }, _, _, rfl, rfl, rfl⟩,
    ⟨{ pendingIn State.reset 6#32 with schedule := [.core, .host] }, _, _, _, rfl, rfl, rfl⟩, _, rfl⟩

theorem witness_IllegalWordCompletesWithIllegalCommand :
    (∀ w, (pendingIn State.reset w).pending = some (tableWord 32 w.toNat)) ∧
      ∀ w ∈ [0x00000011#32, 0x80000001#32, 0x00000000#32, 0x0000000C#32, 0x0000000F#32],
        w.toNat / 16 ≠ 0 ∨ w.toNat % 16 = 0 ∨ 12 ≤ w.toNat % 16 := ⟨fun _ => rfl, by simp⟩

theorem witness_HostMovesWhenNothingIsPending :
    (State.reset.schedule = [] ∧ State.reset.pending = none) ∧
      ({ State.reset with schedule := [.host, .core] } : State).schedule = .host :: [.core] ∧
      ({ State.reset with schedule := [.core] } : State).schedule = .core :: [] ∧
      ({ State.reset with schedule := [.core] } : State).pending = none := by decide

theorem witness_CommandWriteIssues : State.reset.busy = false ∧ (pendingIn State.reset 1#32).busy = true := by decide

theorem witness_CompletionClearsBusyAndPending :
    (∃ t, coreStep (pendingIn (loaded 0xB0000000#32 4#32) 1#32) = .next t ∧ t.err = .none) ∧
    (∃ t, coreStep (pendingIn (loaded 0xB0000000#32 5#32) 1#32) = .next t ∧ t.err ≠ .none) :=
  ⟨⟨_, rfl, rfl⟩, ⟨_, rfl, by decide⟩⟩

/-- A host with one operation to do and one variable. -/
def hostAt (op : HostOp) : State :=
  { State.reset with host := { program := [op], pc := 0, vars := [(.scratch, 1#32)], checkFailed := false } }

theorem witness_HostOperationsRunInOrder :
    (∃ (s t : State), s.host.program[s.host.pc]? = some (.write 0x008 4 (.imm 4#32)) ∧ busWrite 0x008 4 4#32 s = .ok t) ∧
    (∃ (s t : State) (v : Word), s.host.program[s.host.pc]? = some (.write 0x1001FC 4 (.var .scratch)) ∧ s.host.value .scratch = some v ∧
      busWrite 0x1001FC 4 v s = .ok t) ∧
    (∃ (s : State) (v : Word) (t : State), s.host.program[s.host.pc]? = some (.read 0x04C 4 .scratch) ∧ busRead 0x04C 4 s = .ok (v, t)) ∧
    (∃ (s : State) (v : Word), s.host.program[s.host.pc]? = some (.branchIf .scratch 1#32 0) ∧ s.host.value .scratch = some v ∧
      v &&& 1#32 ≠ 0#32) ∧
    (∃ (s : State) (v : Word), s.host.program[s.host.pc]? = some (.branchIf .scratch 2#32 0) ∧ s.host.value .scratch = some v ∧
      v &&& 2#32 = 0#32) ∧
    (∃ (s : State) (v : Word), s.host.program[s.host.pc]? = some (.check .scratch 3#32 1#32) ∧ s.host.value .scratch = some v ∧
      v &&& 1#32 = 3#32 &&& 1#32) ∧
    (∃ (s : State) (v : Word), s.host.program[s.host.pc]? = some (.check .scratch 3#32 2#32) ∧ s.host.value .scratch = some v ∧
      v &&& 2#32 ≠ 3#32 &&& 2#32) ∧
    (∃ s : State, s.host.program[s.host.pc]? = some .halt) ∧ (∃ s : State, s.host.program[s.host.pc]? = none) ∧
    (∃ op f, (hostAt op).host.program[0]? = some (.write 0x004 4 (.imm 4#32)) ∧ busWrite 0x004 4 4#32 (hostAt op) = .error f) ∧
    (∃ op v f, (hostAt op).host.program[0]? = some (.write 0x050 4 (.var .scratch)) ∧
      (hostAt op).host.value .scratch = some v ∧ busWrite 0x050 4 v (hostAt op) = .error f) ∧
    (∃ op f, (hostAt op).host.program[0]? = some (.read 0x100000 4 .scratch) ∧
      busRead 0x100000 4 (hostAt op) = .error f) ∧
    ∀ op ∈ [HostOp.write 0x008 4 (.var (.named 0)), .check (.named 0) 1#32 1#32, .branchIf (.named 0) 1#32 0],
      (hostAt op).host.value (.named 0) = none ∧ (hostAt op).host.program[(hostAt op).host.pc]? = some op :=
  ⟨⟨hostAt _, _, rfl, rfl⟩, ⟨hostAt _, _, _, rfl, rfl, rfl⟩, ⟨hostAt _, _, _, rfl, rfl⟩,
    ⟨hostAt _, _, rfl, rfl, by decide⟩, ⟨hostAt _, _, rfl, rfl, by decide⟩, ⟨hostAt _, _, rfl, rfl, by decide⟩,
    ⟨hostAt _, _, rfl, rfl, by decide⟩, ⟨hostAt _, rfl⟩, ⟨State.reset, rfl⟩,
    ⟨_, _, rfl, rfl⟩, ⟨_, _, _, rfl, rfl, rfl⟩, ⟨_, _, rfl, rfl⟩, by decide⟩

theorem witness_BusyHostMayOnlyReadStatus :
    (pendingIn State.reset 1#32).busy = true ∧ ¬ (0x004 = 0x004 ∧ 2 = 4) ∧ ¬ (0x008 = 0x004 ∧ 4 = 4) := by decide

theorem witness_OnlyAlignedWordAccesses :
    State.reset.busy = false ∧ (2 ≠ 4 ∨ 0x004 % 4 ≠ 0) ∧ (4 ≠ 4 ∨ 0x100003 % 4 ≠ 0) := by decide

theorem witness_ReservedAndReadOnlyAccessesFault :
    State.reset.busy = false ∧
      (∀ addr ∈ [0x050, 0xFFC, 0x1000, 0xFFFFC],
        0x050 ≤ addr ∧ addr < 0x100000 ∨ 0x100000 + 4 * (State.reset.cfg.ibufBits / 32) ≤ addr ∧ addr < 0x200000) ∧
      (∀ addr ∈ [0x100200, 0x1FFFFC],
        0x100000 + 4 * (State.reset.cfg.ibufBits / 32) ≤ addr ∧ addr < 0x200000) ∧
      (∀ addr ∈ [0x200400, 0x2FFFFC],
        0x200000 + 4 * (2 * State.reset.cfg.ibufBits / 32) ≤ addr ∧ addr < 0x300000) ∧
      (∀ addr ∈ [0x300200, 0x3FFFFC, 0x400000], 0x300000 + 4 * (State.reset.cfg.ibufBits / 32) ≤ addr) ∧
      0x04C ∈ [0x004, 0x00C, 0x010, 0x018, 0x01C, 0x030, 0x034, 0x038, 0x03C, 0x040, 0x044, 0x048, 0x04C] ∧
      (0x200000 ≤ 0x3FFFFC ∧ 0x3FFFFC < 0x400000) := by decide

theorem witness_ReadWriteRegistersReadBack : State.reset.busy = false := by decide

theorem witness_ReadOnlyRegistersRead : (geLoaded .bad 0#32 0#32 []).busy = false := by decide

theorem witness_IbufWordReadsBack :
    State.reset.cfg.wf = true ∧ State.reset.busy = false ∧ 127 < State.reset.cfg.ibufBits / 32 ∧
      State.reset.mem.read (0x100000 + 4 * 127) = none := by decide

/-- The last word of OBUF has no valid bit; word 0 of OBUF and of FBUF has seven and two. -/
theorem witness_OutputBuffersReadValidBits :
    ∃ s : State, s.cfg.wf = true ∧ s.busy = false ∧ 255 < 2 * s.cfg.ibufBits / 32 ∧ 127 < s.cfg.ibufBits / 32 ∧
      s.out[32 * 0 + 6]? = some true ∧ s.flags[32 * 0 + 1]? = some true ∧
      (s.out.length ≤ 32 * 0 + 7 ∧ s.out.length ≤ 32 * 255 + 31 ∧ s.flags.length ≤ 32 * 0 + 2) ∧
      s.anyBits.queue = 5#32 :: [] :=
  ⟨{ State.reset with
      out := bitsOf 7 0b0110011, flags := [false, true], anyBits := { queue := [5#32], taken := 0 } }, by decide⟩

theorem witness_HostReadsChangeNothing :
    (∃ v t w u, busRead 0x1001FC 4 { State.reset with mem := Memory.writeWord [] 0x1001FC 7#32 } = .ok (v, t) ∧
      0x1001FC < 0x200000 ∧ busRead 0x1001FC 4 t = .ok (w, u)) ∧
    ∃ v t, busRead 0x3001FC 4 { State.reset with anyBits := { queue := [5#32], taken := 0 } } = .ok (v, t) :=
  ⟨⟨_, _, _, _, rfl, by decide, rfl⟩, ⟨_, _, rfl⟩⟩

theorem witness_HostWriteFrame :
    (∃ t, busWrite 0x1001FC 4 7#32 State.reset = .ok t) ∧ (∃ t, busWrite 0x000 4 7#32 State.reset = .ok t) ∧
      ∃ t, busWrite 0x02C 4 7#32 State.reset = .ok t :=
  ⟨⟨_, rfl⟩, ⟨_, rfl⟩, ⟨_, rfl⟩⟩

/-- Both sides of the two equivalences: an input that is there, and one whose second word is missing. -/
theorem witness_InputIsTheFirstBitsOfIbuf :
    (loaded 0x80000001#32 32#32).input = some (bitsOf 32 0x80000001) ∧
      (loaded 0x80000001#32 33#32).input = none := by decide

theorem witness_ChecksAreMadeInOrder :
    commandWordWf 0xC#32 = false ∧ (ReadsInput .vitDec ∧ (loaded 0#32 4097#32).cfg.ibufBits < 4097) ∧
      ((loaded 0#32 4096#32).inLen.toNat ≤ (loaded 0#32 4096#32).cfg.ibufBits ∧
        (loaded 0#32 4096#32).bscValid = false ∧ (loaded 0#32 4096#32).geValid = false ∧
        (loaded 0#32 4096#32).inLen.toNat ≠ 4 ∧ (loaded 0#32 4096#32).inLen.toNat ≠ 7 ∧
        (loaded 0#32 4096#32).inLen.toNat % 7 ≠ 0) ∧
      ((loaded 0#32 3#32).inLen.toNat ≤ 4096 ∧ (loaded 0#32 3#32).inLen.toNat % 4 ≠ 0 ∧
        (loaded 0#32 3#32).inLen.toNat % 2 ≠ 0) ∧
      (∀ v ∈ [0x80000001#32, 0xFFFFFFFF#32], 2 ^ State.reset.cfg.probW < v.toNat) := by
  refine ⟨by decide, ⟨⟨by decide, by decide, by decide⟩, by decide⟩, by decide, by decide,
    by simp [State.reset, State.resetWith, Params.default]⟩

theorem witness_FailedCommandChangesOnlyStatus :
    (∃ t, completeWord 0xC#32 State.reset = .next t ∧ t.err ≠ .none) ∧
      ∃ t, completeWord 0x1#32 (loaded 0#32 5#32) = .next t ∧ t.err ≠ .none :=
  ⟨⟨_, rfl, by decide⟩, ⟨_, rfl, by decide⟩⟩

theorem witness_CommandFaultsOnlyOnUnwrittenInput :
    exec .convEnc (loaded 0#32 33#32) = .fault .uninitializedInput ∧
      (ReadsInput .convEnc ∧ 0 < (loaded 0#32 33#32).inLen.toNat ∧ 1 ≤ ((loaded 0#32 33#32).inLen.toNat - 1) / 32 ∧
        (loaded 0#32 33#32).mem.readWord (0x100000 + 4 * 1) = none) :=
  ⟨rfl, ⟨by decide, by decide, by decide⟩, by decide⟩

/-- A written input, IN_LEN = 0 with nothing written, and an illegal word and a command without input over unwritten words. -/
theorem witness_WrittenInputNeverFaults :
    ∀ e ∈ [(loaded 0#32 32#32, 6#32), (State.reset, 6#32), (loaded 0#32 33#32, 12#32), (loaded 0#32 33#32, 5#32)],
      ((pendingIn e.1 e.2).schedule = [] ∨ (pendingIn e.1 e.2).schedule.head? = some .core) ∧
      (pendingIn e.1 e.2).pending = some e.2 ∧
      ∀ i, decode e.2 = .ok i → ReadsInput i → 0 < (pendingIn e.1 e.2).inLen.toNat →
        ∀ k ≤ ((pendingIn e.1 e.2).inLen.toNat - 1) / 32,
          (pendingIn e.1 e.2).mem.readWord (0x100000 + 4 * k) ≠ none := by
  intro e he
  simp only [List.mem_cons, List.not_mem_nil, or_false] at he
  rcases he with rfl | rfl | rfl | rfl
  · exact ⟨.inr rfl, rfl, fun _ _ _ _ => by decide⟩
  · exact ⟨.inr rfl, rfl, fun _ _ _ h => absurd h (by decide)⟩
  · exact ⟨.inr rfl, rfl, fun i h => by cases h⟩
  · exact ⟨.inr rfl, rfl, fun i h hr => by cases h; exact absurd rfl hr.1⟩

/-- The other form of the first premise: no turn is forced. -/
theorem witness_WrittenInputNeverFaults_default_turn :
    ({ pendingIn (loaded 0#32 32#32) 6#32 with schedule := [] } : State).schedule = [] ∧
      ({ pendingIn (loaded 0#32 32#32) 6#32 with schedule := [] } : State).pending = some 6#32 ∧
      ({ pendingIn (loaded 0#32 32#32) 6#32 with schedule := [] } : State).mem.readWord 0x100000 ≠ none := by decide

theorem witness_HamEncBlkEncodesABlock :
    (loaded 0#32 4097#32).cfg.ibufBits < (loaded 0#32 4097#32).inLen.toNat ∧
      ((loaded 0#32 0#32).inLen.toNat ≤ (loaded 0#32 0#32).cfg.ibufBits ∧ (loaded 0#32 0#32).inLen.toNat ≠ 4) ∧
      (loaded 0xB0000000#32 4#32).inLen = 4#32 ∧ 4 ≤ (loaded 0xB0000000#32 4#32).cfg.ibufBits ∧
      (loaded 0xB0000000#32 4#32).input = some [true, false, true, true] := by decide

theorem witness_HamDecBlkDecodesABlock :
    (loaded 0#32 4097#32).cfg.ibufBits < (loaded 0#32 4097#32).inLen.toNat ∧
      ((loaded 0#32 8#32).inLen.toNat ≤ (loaded 0#32 8#32).cfg.ibufBits ∧ (loaded 0#32 8#32).inLen.toNat ≠ 7) ∧
      (loaded 0x6E000000#32 7#32).inLen = 7#32 ∧ 7 ≤ (loaded 0x6E000000#32 7#32).cfg.ibufBits ∧
      (loaded 0x6E000000#32 7#32).input = some [false, true, true, false, true, true, true] ∧
      5 = (false ^^ (true ^^ true ^^ true)).toNat * 1 + (true ^^ (true ^^ true ^^ true)).toNat * 2 +
        (false ^^ (true ^^ true ^^ true)).toNat * 4 := by decide

theorem witness_HamEncSeqEncodesEveryGroup :
    (loaded 0#32 4097#32).cfg.ibufBits < (loaded 0#32 4097#32).inLen.toNat ∧
      ((loaded 0#32 6#32).inLen.toNat ≤ (loaded 0#32 6#32).cfg.ibufBits ∧ (loaded 0#32 6#32).inLen.toNat % 4 ≠ 0) ∧
      (loaded 0x41420000#32 16#32).inLen.toNat ≤ (loaded 0x41420000#32 16#32).cfg.ibufBits ∧
      (loaded 0x41420000#32 16#32).inLen.toNat % 4 = 0 ∧
      (loaded 0x41420000#32 16#32).input = some (bitsOf 16 0x4142) := by decide

theorem witness_HamDecSeqDecodesEveryBlock :
    (loaded 0#32 4097#32).cfg.ibufBits < (loaded 0#32 4097#32).inLen.toNat ∧
      ((loaded 0#32 8#32).inLen.toNat ≤ (loaded 0#32 8#32).cfg.ibufBits ∧ (loaded 0#32 8#32).inLen.toNat % 7 ≠ 0) ∧
      (loaded 0x99A266A0#32 28#32).inLen.toNat ≤ (loaded 0x99A266A0#32 28#32).cfg.ibufBits ∧
      (loaded 0x99A266A0#32 28#32).inLen.toNat % 7 = 0 ∧
      (loaded 0x99A266A0#32 28#32).input = some (bitsOf 28 0x99A266A) := by decide

/-- The text "AB" encoded; position 7 of codeword 1 and position 1 of codeword 3 are inverted on the way. -/
theorem witness_HammingCorrectsOneErrorPerBlock :
    ∃ (s t s' : State) (b rx : Bits), s.input = some b ∧ exec .hamEncSeq s = .next t ∧ t.err = .none ∧
      s'.input = some rx ∧ s'.inLen.toNat ≤ s'.cfg.ibufBits ∧ rx.length = t.out.length ∧
      ∀ g, distance (block t.out 7 g) (block rx 7 g) ≤ 1 := by
  refine ⟨loaded 0x41420000#32 16#32, _, loaded 0x99A266A0#32 28#32, bitsOf 16 0x4142, bitsOf 28 0x99A266A,
    by decide, rfl, rfl, by decide, by decide, by decide, fun g => ?_⟩
  by_cases h : g < 4
  · revert g; decide
  · have : block (bitsOf 28 0x99A266A) 7 g = [] := by
      rw [block, List.drop_eq_nil_of_le (Nat.le_trans (by decide : _ ≤ 28) (by omega))]; rfl
    rw [this]
    cases block _ 7 g <;> exact Nat.zero_le 1

theorem witness_ConvEncIsTheGeneratorConvolution :
    (loaded 0#32 4097#32).cfg.ibufBits < (loaded 0#32 4097#32).inLen.toNat ∧
      (loaded 0xB0000000#32 4#32).inLen.toNat ≤ (loaded 0xB0000000#32 4#32).cfg.ibufBits ∧
      (loaded 0xB0000000#32 4#32).input = some [true, false, true, true] := by decide

theorem witness_AddCompareSelectRule :
    ∃ (row row' : PmRow) (cand : TrellisState → Nat),
      (pathMetricRows Params.default (initialRow Params.default) [true, true, true, false])[1]? = some row ∧
      (pathMetricRows Params.default (initialRow Params.default) [true, true, true, false])[1 + 1]? = some row' ∧
      [true, true, true, false][2 * 1]? = some true ∧ [true, true, true, false][2 * 1 + 1]? = some false ∧
      (2#2).toNat = 2 * ((3#2).toNat % 2) ∧ (3#2).toNat = 2 * ((3#2).toNat % 2) + 1 ∧
      true = decide ((3#2).toNat / 2 = 1) ∧
      ∀ q, cand q = if (row.entry q).metric = Params.default.inf then Params.default.inf
        else (row.entry q).metric + ((true ^^ out0 q true).toNat + (false ^^ out1 q true).toNat) :=
  ⟨_, _, _, rfl, rfl, rfl, rfl, rfl, rfl, rfl, fun _ => rfl⟩

theorem witness_PathMetricsStayBelowInf :
    ∃ row, [true, true, true, false].length / 2 ≤ Params.default.tMax ∧
      (pathMetricRows Params.default (initialRow Params.default) [true, true, true, false])[2]? = some row :=
  ⟨_, by decide, rfl⟩

theorem witness_FinalStateIsTheSmallestMinimum :
    (0#2).toNat < (bestState ⟨⟨3, 0#2⟩, ⟨1, 2#2⟩, ⟨2, 0#2⟩, ⟨1, 2#2⟩⟩).toNat := by decide

/-- Eight bits, and the empty input. -/
theorem witness_VitDecCompletes :
    (loaded 0xE1000000#32 8#32).inLen.toNat ≤ (loaded 0xE1000000#32 8#32).cfg.ibufBits ∧
      (loaded 0xE1000000#32 8#32).inLen.toNat % 2 = 0 ∧
      (loaded 0xE1000000#32 8#32).input = some (bitsOf 8 0xE1) ∧ State.reset.inLen.toNat ≤ State.reset.cfg.ibufBits ∧
      State.reset.inLen.toNat % 2 = 0 ∧ State.reset.input = some [] := by decide

theorem witness_ViterbiDecodesToANearestCodeword :
    ∃ (s t : State) (rx b : Bits), s.input = some rx ∧ exec .vitDec s = .next t ∧ t.err = .none ∧
      2 * b.length = rx.length :=
  ⟨loaded 0x81000000#32 8#32, _, bitsOf 8 0x81, bitsOf 4 0b1011, by decide, rfl, rfl, by decide⟩

theorem witness_ViterbiInvertsTheEncoder :
    ∃ (s t s' : State) (b : Bits), s.input = some b ∧ exec .convEnc s = .next t ∧ t.err = .none ∧
      s'.input = some t.out ∧ b.length ≤ s'.cfg.tMax :=
  ⟨loaded 0xB0000000#32 4#32, _, loaded 0xE1000000#32 8#32, bitsOf 4 0b1011, by decide, rfl, rfl, by decide, by decide⟩

theorem witness_BscCfgConstructsTheChannel :
    (∃ s : State, s.param0.toNat ≤ 2 ^ s.cfg.probW) ∧ ∃ s : State, 2 ^ s.cfg.probW < s.param0.toNat :=
  ⟨⟨{ State.reset with param0 := 0x80000000#32 }, by decide⟩, ⟨{ State.reset with param0 := 0x80000001#32 }, by decide⟩⟩

theorem witness_BscTxFlipsWhereTheDrawHits :
    (bscLoaded 0xA0000000#32 4#32).inLen.toNat ≤ (bscLoaded 0xA0000000#32 4#32).cfg.ibufBits ∧
      (bscLoaded 0xA0000000#32 4#32).bscValid = true ∧
      (bscLoaded 0xA0000000#32 4#32).input = some (bitsOf 4 0b1010) := by decide

/-- One state for each of the three clauses: p = 0, p = 1 and p = 1/2. -/
theorem witness_BscAtZeroAndOne :
    ∀ ber ∈ [0#32, 0x80000000#32, 0x40000000#32],
      ∃ (t : State) (b : Bits), ({ bscLoaded 0xA0000000#32 4#32 with bscBer := ber } : State).input = some b ∧
        exec .bscTx { bscLoaded 0xA0000000#32 4#32 with bscBer := ber } = .next t ∧ t.err = .none := by
  intro ber _
  exact ⟨_, bitsOf 4 0b1010, by rfl, rfl, rfl⟩

theorem witness_GeCfgConstructsTheChannel :
    (∃ s : State, s.param0.toNat ≤ 2 ^ s.cfg.probW ∧ s.param1.toNat ≤ 2 ^ s.cfg.probW ∧
      s.param2.toNat ≤ 2 ^ s.cfg.probW ∧ s.param3.toNat ≤ 2 ^ s.cfg.probW) ∧
    ∃ s : State, s.param0.toNat ≤ 2 ^ s.cfg.probW ∧ 2 ^ s.cfg.probW < s.param3.toNat :=
  ⟨⟨{ State.reset with param0 := 0x20000000#32, param1 := 0x40000000#32, param3 := 0x80000000#32 }, by decide⟩,
    ⟨{ State.reset with param3 := 0x80000001#32 }, by decide⟩⟩

theorem witness_GeTxFollowsTheChannelStates :
    ∃ (s : State) (b : Bits) (g : Nat → Channel), s.inLen.toNat ≤ s.cfg.ibufBits ∧ s.geValid = true ∧
      s.input = some b ∧ g 0 = s.geState ∧
      ∀ k, g (k + 1) = match g k with
        | .good => if drawAt s (2 * k) < s.gePgb.toNat then .bad else .good
        | .bad => if drawAt s (2 * k) < s.gePbg.toNat then .good else .bad :=
  let s := geLoaded .good 0xE1000000#32 8#32 [0x10000000#32]
  ⟨s, bitsOf 8 0xE1,
    Nat.rec s.geState fun k c => match c with
      | .good => if drawAt s (2 * k) < s.gePgb.toNat then .bad else .good
      | .bad => if drawAt s (2 * k) < s.gePbg.toNat then .good else .bad,
    by decide, rfl, by decide, rfl, fun _ => rfl⟩

/-- Clause (a) with one state twice; clause (b) with the input 11100001 cut after its second bit, as in P5. -/
theorem witness_GilbertElliottIsDeterministicAndSplits :
    ∃ (s s₁ s₂ t t₁ t₂ : State) (x y : Bits), s.input = some (x ++ y) ∧ s₁.input = some x ∧ s₂.input = some y ∧
      SameGeParams s s₁ ∧ SameGeParams s s₂ ∧ s₁.cfg.probW = s.cfg.probW ∧ s₂.cfg.probW = s.cfg.probW ∧
      s₁.geState = s.geState ∧ s₁.entropy = s.entropy ∧
      exec .geTx s = .next t ∧ exec .geTx s₁ = .next t₁ ∧ s₂.geState = t₁.geState ∧ s₂.entropy = t₁.entropy ∧
      exec .geTx s₂ = .next t₂ ∧ t.err = .none ∧ t₁.err = .none ∧ t₂.err = .none ∧
      ∀ k, drawAt s₁ k = drawAt s k :=
  ⟨geLoaded .good 0xE1000000#32 8#32 [0x7FFFFFFF#32, 0#32, 0x10000000#32, 0x7FFFFFFF#32],
    geLoaded .good 0xC0000000#32 2#32 [0x7FFFFFFF#32, 0#32, 0x10000000#32, 0x7FFFFFFF#32],
    { geLoaded .bad 0x84000000#32 6#32 [] with entropy := { queue := [], taken := 4 } },
    _, _, _, bitsOf 2 0b11, bitsOf 6 0b100001, by decide, by decide, by decide, ⟨rfl, rfl, rfl, rfl, rfl⟩,
    ⟨rfl, rfl, rfl, rfl, rfl⟩, rfl, rfl, rfl, rfl, rfl, rfl, by decide, by decide, rfl, rfl, rfl, rfl, fun _ => rfl⟩

theorem witness_DrawsAreTakenOnlyByTransmits :
    (∃ t, step (pendingIn (bscLoaded 0xA0000000#32 4#32) 9#32) = .next t ∧
      Completes (pendingIn (bscLoaded 0xA0000000#32 4#32) 9#32) .bscTx ∧ t.err = .none) ∧
    (∃ t, step (pendingIn (geLoaded .good 0xA0000000#32 4#32 []) 11#32) = .next t ∧
      Completes (pendingIn (geLoaded .good 0xA0000000#32 4#32 []) 11#32) .geTx ∧ t.err = .none) ∧
    (∃ t, step (pendingIn (loaded 0xA0000000#32 4#32) 9#32) = .next t ∧ t.err ≠ .none) ∧
    ∃ t, step (pendingIn (loaded 0xA0000000#32 4#32) 6#32) = .next t ∧
      ¬ Completes (pendingIn (loaded 0xA0000000#32 4#32) 6#32) .bscTx ∧
      ¬ Completes (pendingIn (loaded 0xA0000000#32 4#32) 6#32) .geTx :=
  ⟨⟨_, rfl, ⟨rfl, .inr rfl⟩, rfl⟩, ⟨_, rfl, ⟨rfl, .inr rfl⟩, rfl⟩, ⟨_, rfl, by decide⟩,
    ⟨_, rfl, fun h => absurd h.1 (by decide), fun h => absurd h.1 (by decide)⟩⟩

theorem witness_EncodersAndViterbiFrame :
    ∀ i ∈ [Instr.hamEncBlk, .hamEncSeq, .convEnc, .vitDec],
      (nextOf (exec i (loaded 0xB0000000#32 4#32))).map (·.err) = some .none ∧
      (nextOf (exec i (loaded 0xB0000000#32 4097#32))).map (·.err) = some .capacityExceeded := by decide

theorem witness_HammingDecodersFrame :
    ∀ i ∈ [Instr.hamDecBlk, .hamDecSeq],
      (nextOf (exec i (loaded 0x6E000000#32 7#32))).map (·.err) = some .none ∧
      (nextOf (exec i (loaded 0x6E000000#32 8#32))).map (·.err) ≠ some .none ∧
      (nextOf (exec i (loaded 0x6E000000#32 8#32))).isSome = true := by decide

theorem witness_SystemCommandsFrame :
    (∀ i ∈ [Instr.hamCntClr, .bscCfg, .geCfg], (nextOf (exec i State.reset)).map (·.err) = some .none) ∧
      ∀ i ∈ [Instr.bscCfg, .geCfg],
        (nextOf (exec i { State.reset with param0 := 0x80000001#32 })).map (·.err) = some .invalidChannelParams := by
  decide

theorem witness_TransmitsFrame :
    (∃ t, exec .bscTx (bscLoaded 0xA0000000#32 4#32) = .next t ∧ t.err = .none) ∧
    (∃ t, exec .geTx (geLoaded .bad 0xA0000000#32 4#32 []) = .next t ∧ t.err = .none) ∧
    ∀ i ∈ [Instr.bscTx, .geTx], (nextOf (exec i State.reset)).map (·.err) = some .notConfigured :=
  ⟨⟨_, rfl, rfl⟩, ⟨_, rfl, rfl⟩, by decide⟩

theorem witness_NoImplicitReset :
    (∃ t, step (pendingIn (geLoaded .bad 0#32 0#32 []) 10#32) = .next t ∧
      ¬ Resets (pendingIn (geLoaded .bad 0#32 0#32 []) 10#32) ∧
      t.geState ≠ (pendingIn (geLoaded .bad 0#32 0#32 []) 10#32).geState ∧
      ¬ SameGeParams (pendingIn (geLoaded .bad 0#32 0#32 []) 10#32) t) ∧
    (∃ t, step (pendingIn { State.reset with hamCnt := 3#32 } 5#32) = .next t ∧
      ¬ Resets (pendingIn { State.reset with hamCnt := 3#32 } 5#32) ∧ t.hamCnt ≠ 3#32) ∧
    ∃ t, step (pendingIn State.reset 8#32) = .next t ∧ ¬ Resets (pendingIn State.reset 8#32) ∧
      ¬ SameBsc (pendingIn State.reset 8#32) t :=
  ⟨⟨_, rfl, by unfold Resets; decide, by decide, fun h => absurd h.1 (by decide)⟩,
    ⟨_, rfl, by unfold Resets; decide, by decide⟩,
    ⟨_, rfl, by unfold Resets; decide, fun h => absurd h.2 (by decide)⟩⟩

theorem witness_WhoWritesWhat :
    (∃ t, step (pendingIn (loaded 0xB0000000#32 4#32) 6#32) = .next t ∧
      ¬ Resets (pendingIn (loaded 0xB0000000#32 4#32) 6#32) ∧
      Completes (pendingIn (loaded 0xB0000000#32 4#32) 6#32) .convEnc ∧
      ¬ SameOutput (pendingIn (loaded 0xB0000000#32 4#32) 6#32) t) ∧
    ∃ t w, step (hostAt (.write 0x000 4 (.imm 6#32))) = .next t ∧
      ¬ Resets (hostAt (.write 0x000 4 (.imm 6#32))) ∧ (hostAt (.write 0x000 4 (.imm 6#32))).pending = none ∧
      t.pending = some w :=
  ⟨⟨_, rfl, by unfold Resets; decide, ⟨rfl, .inr rfl⟩, fun h => absurd h.1 (by decide)⟩,
    ⟨_, _, rfl, by unfold Resets; decide, rfl, rfl⟩⟩

/-- A reset with a command in flight; a completion that faults, and a forced host turn whose access faults. -/
theorem witness_HardwareResetAtAnyTime :
    (({ pendingIn (loaded 0xB0000000#32 4#32) 6#32 with schedule := [.reset, .host] } : State).schedule =
      .reset :: [.host]) ∧
    step (pendingIn (loaded 0#32 33#32) 6#32) = .fault .uninitializedInput ∧
    step { pendingIn (hostAt (.read 0x008 4 .scratch)) 6#32 with schedule := [.host] } =
      .fault .hostAccessWhileBusy ∧
    step (hostAt (.read 0x050 4 .scratch)) = .fault .busError := ⟨rfl, rfl, rfl, rfl⟩

/-- Each invariant holds in a state that is not the reset state and takes a step. -/
theorem witness_StepKeepsStatusInvariant :
    StatusInv (pendingIn State.reset 12#32) ∧ (nextOf (step (pendingIn State.reset 12#32))).isSome = true := by decide

theorem witness_StepKeepsMemoryInvariant :
    MemoryInv (hostAt (.write 0x1001FC 4 (.imm 6#32))) ∧ MemoryInv (loaded 6#32 0#32) ∧
      (nextOf (step (hostAt (.write 0x1001FC 4 (.imm 6#32))))).map (·.mem.length) = some 4 := by decide

theorem witness_StepKeepsChannelInvariant :
    ChannelInv (pendingIn { State.reset with param0 := 0x80000000#32 } 8#32) ∧
      (nextOf (step (pendingIn { State.reset with param0 := 0x80000000#32 } 8#32))).map (·.bscBer) =
        some 0x80000000#32 := by decide

theorem witness_StepKeepsBufferInvariant :
    BufferInv (pendingIn (loaded 0xB0000000#32 4#32) 6#32) ∧
      (nextOf (step (pendingIn (loaded 0xB0000000#32 4#32) 6#32))).map (·.out.length) = some 8 := by decide

theorem witness_HostByteConvention :
    ([0x41#8, 0x42#8] : List Byte)[1]? = some 0x42#8 ∧ 7 < 8 ∧ (bitsOf 15 0).length % 8 ≠ 0 ∧
      (bitsOf 16 0).length % 8 = 0 := by decide

end Sys2Proof.Tests
end

/-! PROOFS. The state of the core (spec 10_state.md): what a read register answers, how a completion ends, and the four
invariants of the machine, at reset and over every step. -/

namespace Sys2Proof.Machine

/-! ### Reading a register -/

/-- The read of a register that has a value answers it and changes nothing; STATUS can be read while BUSY, the others
while not (10_state.md R23, 70_reset_and_hazards.md R265). -/
theorem busRead_reg {s : State} {r : RegName} {v : Word} (hb : s.busy = false ∨ r = .status)
    (hv : s.regRead r = some v) : busRead r.offset 4 s = .ok (v, s) := by
  have hl : locate s.cfg r.offset 4 = some (.reg r) := (locate_reg_iff _ _ _ _).2 ⟨rfl, rfl⟩
  have hopen : s.blocked (some (Target.reg r) == some (.reg .status)) = false := by
    rcases hb with hb | rfl <;> simp [State.blocked, *]
  simp only [busRead, hl, hopen, hv, Bool.false_eq_true, if_false]

/-! ### The STATUS word -/

/-- STATUS as ERR's code with the four flags put below it, one by one (10_state.md R25). -/
theorem State.statusWord_eq_concat (s : State) :
    s.statusWord = ((((0#24 ++ s.err.code).concat s.geValid).concat s.bscValid).concat s.done).concat s.busy := rfl

theorem State.statusWord_toNat (s : State) :
    s.statusWord.toNat = 16 * s.err.code.toNat + 8 * s.geValid.toNat + 4 * s.bscValid.toNat + 2 * s.done.toNat +
      s.busy.toNat := by
  have code : (0#24 ++ s.err.code).toNat = s.err.code.toNat := by
    rw [BitVec.toNat_append]
    simp
  simp only [s.statusWord_eq_concat, BitVec.toNat_concat, code]
  omega

theorem State.statusWord_lt (s : State) : s.statusWord.toNat < 256 := by
  have h := s.err.code.isLt
  have := s.geValid.toNat_le
  have := s.bscValid.toNat_le
  have := s.done.toNat_le
  have := s.busy.toNat_le
  rw [s.statusWord_toNat]
  omega

theorem State.statusWord_div_sixteen (s : State) : s.statusWord.toNat / 16 = s.err.code.toNat := by
  have := s.geValid.toNat_le
  have := s.bscValid.toNat_le
  have := s.done.toNat_le
  have := s.busy.toNat_le
  rw [s.statusWord_toNat]
  omega

/-- Settles O14: the fields are the pieces the word is put together from. -/
theorem statusReadsItsFields : Obligations.StatusReadsItsFields := by
  intro s
  refine ⟨busRead_reg (r := .status) (.inr rfl) rfl, ?_, ?_, ?_, ?_, s.statusWord_lt, ?_⟩
  · simp only [s.statusWord_eq_concat, BitVec.getLsbD_concat_zero]
  · simp only [s.statusWord_eq_concat, BitVec.getLsbD_concat_succ, BitVec.getLsbD_concat_zero]
  · simp only [s.statusWord_eq_concat, BitVec.getLsbD_concat_succ, BitVec.getLsbD_concat_zero]
  · simp only [s.statusWord_eq_concat, BitVec.getLsbD_concat_succ, BitVec.getLsbD_concat_zero]
  · rw [s.statusWord_div_sixteen]
    cases s.err <;> rfl

/-- Settles O15, register by register. -/
theorem readOnlyRegistersRead : Obligations.ReadOnlyRegistersRead := by
  intro s hb
  have read : ∀ {r v}, s.regRead r = some v → busRead r.offset 4 s = .ok (v, s) := busRead_reg (.inl hb)
  have geState : s.regRead .geState = some (if s.geState = .bad then 1#32 else 0#32) := by
    cases h : s.geState <;> simp [State.regRead, h, Channel.bit]
  exact ⟨read (r := .outLen) rfl, read (r := .flagLen) rfl, read (r := .hamCnt) rfl, read (r := .geState) geState,
    read (r := .bscBer) rfl, read (r := .gePgb) rfl, read (r := .gePbg) rfl, read (r := .geEg) rfl,
    read (r := .geEb) rfl, read (r := .id) rfl, read (r := .capIbuf) rfl, read (r := .capProbw) rfl⟩

/-! ### Reset -/

/-- Settles O54: every register but the three constants has the value 0 after reset. -/
theorem resetValues : Obligations.ResetValues := by
  have read : ∀ {r v}, State.reset.regRead r = some v → busRead r.offset 4 State.reset = .ok (v, State.reset) :=
    busRead_reg (.inl rfl)
  have zero : ∀ a ∈ [RegName.status, .inLen, .outLen, .flagLen, .tbDepth, .hamCnt, .geState, .param0, .param1, .param2,
      .param3, .bscBer, .gePgb, .gePbg, .geEg, .geEb].map RegName.offset,
      busRead a 4 State.reset = .ok (0#32, State.reset) :=
    List.forall_mem_map.2 fun r hr => read (by revert r; decide)
  exact ⟨zero, read (r := .id) rfl, read (r := .capIbuf) rfl, read (r := .capProbw) rfl, fun _ => rfl, rfl, rfl, rfl, rfl⟩

theorem statusInv_resetWith (p : Params) : StatusInv (State.resetWith p) := ⟨rfl, nofun⟩

theorem memoryInv_resetWith (p : Params) : MemoryInv (State.resetWith p) := ⟨rfl, nofun⟩

theorem channelInv_resetWith (p : Params) : ChannelInv (State.resetWith p) := by
  have legal : (0#32).toNat ≤ 2 ^ p.probW := Nat.zero_le _
  exact ⟨⟨legal, legal, legal, legal, legal⟩, fun _ => rfl, fun _ => ⟨rfl, rfl, rfl, rfl, rfl⟩⟩

theorem bufferInv_resetWith (p : Params) : BufferInv (State.resetWith p) := ⟨Nat.zero_le _, Nat.zero_le _⟩

/-- Settles O55: nothing is pending, no byte is listed, both channels are at their reset values, both outputs are empty. -/
theorem resetMeetsTheInvariants : Obligations.ResetMeetsTheInvariants := fun p =>
  ⟨statusInv_resetWith p, memoryInv_resetWith p, channelInv_resetWith p, bufferInv_resetWith p⟩

/-! ### Lengths of the results of a command -/

theorem henc_length {d : Bits} (h : d.length = 4) : (henc d).length = 7 := by
  obtain ⟨d0, d1, d2, d3, rfl⟩ := List.length_eq_four.1 h
  rfl

@[simp] theorem hencSeq_length (b : Bits) : (hencSeq b).length = 7 * (b.length / 4) :=
  match b with
  | [] | [_] | [_, _] | [_, _, _] => by simp [hencSeq]
  | d0 :: d1 :: d2 :: d3 :: rest => by
    have ih := hencSeq_length rest
    have hd := henc_length (d := [d0, d1, d2, d3]) rfl
    simp only [hencSeq, List.length_append, List.length_cons, ih, hd]
    omega

@[simp] theorem flipPosition_length (n : Nat) (c : Bits) : (flipPosition n c).length = c.length := by
  induction n, c using flipPosition.induct with
  | case1 c => simp [flipPosition]
  | case2 n hn => simp [flipPosition]
  | case3 b rest => simp [flipPosition]
  | case4 n b rest ih => simp [flipPosition, ih]

theorem dataBits_length {c : Bits} (h : c.length = 7) : (dataBits c).length = 4 := by
  match c, h with
  | [_, _, _, _, _, _, _], _ => rfl

theorem hdec_length {c : Bits} (h : c.length = 7) : (hdec c).1.length = 4 :=
  dataBits_length ((flipPosition_length _ c).trans h)

@[simp] theorem hdecSeqData_length (c : Bits) : (hdecSeqData c).length = 4 * (c.length / 7) :=
  match c with
  | [] | [_] | [_, _] | [_, _, _] | [_, _, _, _] | [_, _, _, _, _] | [_, _, _, _, _, _] => by simp [hdecSeqData]
  | c1 :: c2 :: c3 :: c4 :: c5 :: c6 :: c7 :: rest => by
    have ih := hdecSeqData_length rest
    have hd := hdec_length (c := [c1, c2, c3, c4, c5, c6, c7]) rfl
    simp only [hdecSeqData, List.length_append, List.length_cons, ih, hd]
    omega

@[simp] theorem hdecSeqFlags_length (c : Bits) : (hdecSeqFlags c).length = c.length / 7 :=
  match c with
  | [] | [_] | [_, _] | [_, _, _] | [_, _, _, _] | [_, _, _, _, _] | [_, _, _, _, _, _] => by simp [hdecSeqFlags]
  | c1 :: c2 :: c3 :: c4 :: c5 :: c6 :: c7 :: rest => by
    have ih := hdecSeqFlags_length rest
    simp only [hdecSeqFlags, List.length_cons, ih]
    omega

@[simp] theorem viterbi_length (p : Params) (rx : Bits) : (viterbi p rx).length = rx.length / 2 := by
  unfold viterbi
  split
  · simp [*]
  · split
    · rename_i h
      simpa using congrArg List.length h
    · rename_i last earlier h
      have hl := congrArg List.length h
      simp only [List.length_reverse, pathMetricRows_length, List.length_cons] at hl
      simp only [traceback_length, List.length_dropLast, List.length_cons, List.length_nil]
      omega

/-! ### How a completion ends -/

/-- The states a completion in `s` can end in: an error, or one of the updates the commands make
(30_encoding.md R96 to R99). -/
inductive Completion (s : State) : State → Prop
  /-- In error, with no update (60_exceptions.md R231). -/
  | failed (e : ErrCode) : Completion s (s.finish e)
  /-- HAM_CNT_CLR. -/
  | counterCleared : Completion s ((s.setHamCnt 0#32).finish .none)
  /-- The encoders and VIT_DEC. -/
  | coded {o f : Bits} (fits : BufferInv (s.setOutput o f)) : Completion s ((s.setOutput o f).finish .none)
  /-- The Hamming decoders. -/
  | corrected {o f : Bits} {n : Nat} (fits : BufferInv (s.setOutput o f)) :
      Completion s (((s.setOutput o f).countCorrections n).finish .none)
  /-- BSC_CFG. -/
  | bscConfigured {v : Word} (legal : v.toNat ≤ 2 ^ s.cfg.probW) : Completion s ((s.setBsc v).finish .none)
  /-- BSC_TX. -/
  | bscSent {n : Nat} {o f : Bits} (fits : BufferInv (s.setOutput o f)) :
      Completion s (((s.afterDraws n).setOutput o f).finish .none)
  /-- GE_CFG. -/
  | geConfigured {pgb pbg eg eb : Word} (legal : ∀ v ∈ [pgb, pbg, eg, eb], v.toNat ≤ 2 ^ s.cfg.probW) :
      Completion s ((s.setGe pgb pbg eg eb).finish .none)
  /-- GE_TX, which needs a configured channel. -/
  | geSent {n : Nat} {o f : Bits} {g : Channel} (valid : s.geValid = true) (fits : BufferInv (s.setOutput o f)) :
      Completion s ((((s.afterDraws n).setOutput o f).setGeState g).finish .none)

/-- With its capacity check passed, a command's input is within IBUF_BITS (30_encoding.md R97). -/
theorem input_length_le {s : State} {b : Bits} {cs : List Check} (hc : firstError (s.capacityCheck :: cs) = none)
    (hb : s.input = some b) : b.length ≤ s.cfg.ibufBits := by
  rw [State.length_of_input hb]
  exact s.capacityCheck_passes.1 ((firstError_eq_none_iff _).1 hc _ List.mem_cons_self)

/-- Outputs no longer than twice the input, with flags no longer than it, are within the buffers of a command that checks its
capacity (10_state.md R27, R28). -/
theorem bufferInv_of_input {s : State} {b o f : Bits} {cs : List Check}
    (hc : firstError (s.capacityCheck :: cs) = none) (hb : s.input = some b) (ho : o.length ≤ 2 * b.length)
    (hf : f.length ≤ b.length) : BufferInv (s.setOutput o f) :=
  have hl := input_length_le hc hb
  ⟨ho.trans (Nat.mul_le_mul_left 2 hl), hf.trans hl⟩

/-- With its block check passed, a command's input is one block (30_encoding.md R97). -/
theorem input_length_of_blockCheck {s : State} {b : Bits} {n : Nat}
    (hc : firstError [s.capacityCheck, s.blockCheck n] = none) (hb : s.input = some b) : b.length = n := by
  rw [State.length_of_input hb]
  exact (s.blockCheck_passes n).1 ((firstError_eq_none_iff _).1 hc _ (by simp))

/-- Every command that ends ends in one of the listed ways. -/
theorem exec_completion {i : Instr} {s t : State} (h : exec i s = .next t) : Completion s t := by
  cases i with
  | hamEncBlk =>
    obtain ⟨e, -, rfl⟩ | ⟨hc, d, hd, rfl⟩ := (exec_hamEncBlk_next s t).1 h
    · exact .failed e
    · have h4 := input_length_of_blockCheck hc hd
      exact .coded (bufferInv_of_input hc hd (by rw [henc_length h4]; omega) (Nat.zero_le _))
  | hamDecBlk =>
    obtain ⟨e, -, rfl⟩ | ⟨hc, c, hd, rfl⟩ := (exec_hamDecBlk_next s t).1 h
    · exact .failed e
    · have h7 := input_length_of_blockCheck hc hd
      exact .corrected (bufferInv_of_input hc hd (by rw [hdec_length h7]; omega) (by rw [List.length_singleton]; omega))
  | hamEncSeq =>
    obtain ⟨e, -, rfl⟩ | ⟨hc, b, hb, rfl⟩ := (exec_hamEncSeq_next s t).1 h
    · exact .failed e
    · exact .coded (bufferInv_of_input hc hb (by rw [hencSeq_length]; omega) (Nat.zero_le _))
  | hamDecSeq =>
    obtain ⟨e, -, rfl⟩ | ⟨hc, c, hb, rfl⟩ := (exec_hamDecSeq_next s t).1 h
    · exact .failed e
    · exact .corrected
        (bufferInv_of_input hc hb (by rw [hdecSeqData_length]; omega) (by rw [hdecSeqFlags_length]; omega))
  | hamCntClr =>
    obtain rfl := (exec_hamCntClr_next s t).1 h
    exact .counterCleared
  | convEnc =>
    obtain ⟨e, -, rfl⟩ | ⟨hc, b, hb, rfl⟩ := (exec_convEnc_next s t).1 h
    · exact .failed e
    · exact .coded (bufferInv_of_input hc hb (convEncode_length _ b).le (Nat.zero_le _))
  | vitDec =>
    obtain ⟨e, -, rfl⟩ | ⟨hc, rx, hb, rfl⟩ := (exec_vitDec_next s t).1 h
    · exact .failed e
    · exact .coded (bufferInv_of_input hc hb (by rw [viterbi_length]; omega) (Nat.zero_le _))
  | bscCfg =>
    obtain ⟨e, -, rfl⟩ | ⟨hc, rfl⟩ := (exec_bscCfg_next s t).1 h
    · exact .failed e
    · exact .bscConfigured (by simpa using (firstError_eq_none_iff _).1 hc)
  | bscTx =>
    obtain ⟨e, -, rfl⟩ | ⟨hc, b, hb, rfl⟩ := (exec_bscTx_next s t).1 h
    · exact .failed e
    · have hlen := State.length_of_input hb
      exact .bscSent (bufferInv_of_input hc hb (by rw [flipFlagged_length]; omega) (by simp [hlen]))
  | geCfg =>
    obtain ⟨e, -, rfl⟩ | ⟨hc, rfl⟩ := (exec_geCfg_next s t).1 h
    · exact .failed e
    · exact .geConfigured (by simpa using (firstError_eq_none_iff _).1 hc)
  | geTx =>
    obtain ⟨e, -, rfl⟩ | ⟨hc, b, hb, rfl⟩ := (exec_geTx_next s t).1 h
    · exact .failed e
    · have hlen := State.length_of_input hb
      have valid := s.geConfigured_passes.1 ((firstError_eq_none_iff _).1 hc _ (by simp))
      exact .geSent valid (bufferInv_of_input hc hb (by rw [flipFlagged_length]; omega) (by simp [hlen]))

/-- The core's step does nothing, or completes the pending word. -/
theorem coreStep_completion {s t : State} (h : coreStep s = .next t) : t = s ∨ Completion s t := by
  obtain ⟨-, rfl⟩ | ⟨w, e, -, -, rfl⟩ | ⟨w, i, -, -, hx⟩ := coreStep_next_cases h
  · exact .inl rfl
  · exact .inr (.failed _)
  · exact .inr (exec_completion hx)

/-- An invariant that does not depend on the turns to come is kept by every step, if every completion and every host step
keeps it and it holds after hardware reset. -/
theorem step_keeps {Inv : State → Prop} (turn : ∀ {s}, Inv s → Inv s.afterTurn)
    (core : ∀ {s t}, Completion s t → Inv s → Inv t) (host : ∀ {s t}, hostStep s = .next t → Inv s → Inv t)
    (reset : ∀ s : State, Inv s.hardwareReset) {s t : State} (hs : Inv s) (h : step s = .next t) : Inv t := by
  obtain ⟨-, hc⟩ | ⟨-, hh⟩ | ⟨-, rfl⟩ := step_next_cases h
  · obtain rfl | hc := coreStep_completion hc
    · exact turn hs
    · exact core hc (turn hs)
  · exact host hh (turn hs)
  · exact reset _

/-! ### What a completion does to the fields the invariants speak of -/

theorem Completion.completed {s t : State} (h : Completion s t) : Completed t := by
  cases h <;> exact ⟨rfl, rfl, rfl⟩

theorem Completion.mem_eq {s t : State} (h : Completion s t) : t.mem = s.mem := by
  cases h <;> rfl

theorem Completion.cfg_eq {s t : State} (h : Completion s t) : t.cfg = s.cfg := by
  cases h <;> rfl

/-- A completion leaves OBUF and FBUF alone or writes outputs that fit. -/
theorem Completion.output {s t : State} (h : Completion s t) : SameOutput s t ∨ BufferInv t := by
  cases h with
  | failed | counterCleared | bscConfigured | geConfigured => exact .inl ⟨rfl, rfl⟩
  | coded fits | corrected fits | bscSent fits | geSent _ fits => exact .inr fits

/-- A completion leaves the binary symmetric channel alone or configures it. -/
theorem Completion.bsc {s t : State} (h : Completion s t) :
    SameBsc s t ∨ (t.bscValid = true ∧ t.bscBer.toNat ≤ 2 ^ s.cfg.probW) := by
  cases h with
  | bscConfigured legal => exact .inr ⟨rfl, legal⟩
  | failed | counterCleared | coded | corrected | bscSent | geConfigured | geSent => exact .inl ⟨rfl, rfl⟩

/-- A completion configures the Gilbert-Elliott channel, or leaves its parameters alone; its state then moves only where the
channel was configured before. -/
theorem Completion.ge {s t : State} (h : Completion s t) :
    (SameGeParams s t ∧ (t.geState = s.geState ∨ s.geValid = true)) ∨
      (t.geValid = true ∧ ∀ v ∈ [t.gePgb, t.gePbg, t.geEg, t.geEb], v.toNat ≤ 2 ^ s.cfg.probW) := by
  cases h with
  | geConfigured legal => exact .inr ⟨rfl, legal⟩
  | geSent valid => exact .inl ⟨⟨rfl, rfl, rfl, rfl, rfl⟩, .inr valid⟩
  | failed | counterCleared | coded | corrected | bscSent | bscConfigured =>
    exact .inl ⟨⟨rfl, rfl, rfl, rfl, rfl⟩, .inl rfl⟩

/-! ### The invariants -/

/-- Settles O56: a completion leaves the core idle with nothing pending, and a host step leaves STATUS and PENDING alone or
issues. -/
theorem stepKeepsStatusInvariant : Obligations.StepKeepsStatusInvariant := by
  intro s t
  refine step_keeps (Inv := StatusInv) id ?core ?host fun s => statusInv_resetWith s.cfg
  case core =>
    intro s t h _
    obtain ⟨hbusy, -, hpending⟩ := h.completed
    simp [StatusInv, hbusy, hpending]
  case host =>
    intro s t h hs
    obtain ⟨-, -, ⟨hbusy, hdone, herr, hpending⟩ | ⟨hbusy, hdone, herr, v, hpending⟩, -⟩ := hostStep_frame h
    · rwa [StatusInv, hbusy, hdone, herr, hpending]
    · simp [StatusInv, hbusy, hdone, herr, hpending]

/-- The memory invariant speaks of IBUF's bytes and the parameters alone. -/
theorem memoryInv_congr {s t : State} (hm : t.mem = s.mem) (hc : t.cfg = s.cfg) (hs : MemoryInv s) : MemoryInv t := by
  rwa [MemoryInv, hm, hc]

/-- A word written inside IBUF's window keeps the memory invariant: a listed byte is one of the new word, which reads back, or
an old one, whose own word does not overlap the new one. -/
theorem memoryInv_writeWord {s : State} {k : Nat} (v : Word) (hk : k < s.cfg.ibufBits / 32) (hs : MemoryInv s) :
    MemoryInv (s.setMem (s.mem.writeWord (ibufBase + 4 * k) v)) := by
  obtain ⟨hwf, hcells⟩ := hs
  refine ⟨Memory.wf_writeWord _ _ hwf, fun c hc => ?_⟩
  rw [State.setMem_mem] at hc ⊢
  rw [State.setMem_cfg]
  by_cases hin : ibufBase + 4 * k ≤ c.1 ∧ c.1 < ibufBase + 4 * k + 4
  · simp only [ibufBase] at hin ⊢
    have hword : c.1 - c.1 % 4 = 0x100000 + 4 * k := by omega
    rw [hword, Memory.readWord_writeWord_self]
    exact ⟨by omega, by omega, rfl⟩
  · obtain ⟨hlo, hhi, hword⟩ := hcells c ((Memory.mem_writeWord hc).resolve_left hin)
    refine ⟨hlo, hhi, ?_⟩
    simp only [ibufBase] at hin ⊢
    rwa [Memory.readWord_writeWord_of_apart _ v (by omega)]

/-- Settles O57: only a host write of an IBUF word changes IBUF. -/
theorem stepKeepsMemoryInvariant : Obligations.StepKeepsMemoryInvariant := by
  intro s t
  refine step_keeps (Inv := MemoryInv) id (fun h => memoryInv_congr h.mem_eq h.cfg_eq) ?host
    fun s => memoryInv_resetWith s.cfg
  case host =>
    intro s t h hs
    obtain ⟨⟨-, -, -, -, hcfg, -⟩, -, -, hm | ⟨k, v, hk, hm⟩⟩ := hostStep_frame h
    · exact memoryInv_congr hm hcfg hs
    · exact memoryInv_congr (s := s.setMem _) hm hcfg (memoryInv_writeWord v hk hs)

/-- A completion keeps the channel invariant: each channel is as before or has just been configured, and GE_TX, which moves
GE_STATE, needs GE_VALID. -/
theorem Completion.channelInv {s t : State} (h : Completion s t) (hs : ChannelInv s) : ChannelInv t := by
  obtain ⟨⟨hber, hge⟩, hbscUnset, hgeUnset⟩ := hs
  have bsc : t.bscBer.toNat ≤ 2 ^ t.cfg.probW ∧ (t.bscValid = false → t.bscBer = 0#32) := by
    rw [h.cfg_eq]
    obtain ⟨hv, hf⟩ | ⟨hf, legal⟩ := h.bsc
    · rw [hv, hf]
      exact ⟨hber, hbscUnset⟩
    · exact ⟨legal, by simp [hf]⟩
  have ge : (t.gePgb.toNat ≤ 2 ^ t.cfg.probW ∧ t.gePbg.toNat ≤ 2 ^ t.cfg.probW ∧ t.geEg.toNat ≤ 2 ^ t.cfg.probW ∧
        t.geEb.toNat ≤ 2 ^ t.cfg.probW) ∧
      (t.geValid = false →
        t.gePgb = 0#32 ∧ t.gePbg = 0#32 ∧ t.geEg = 0#32 ∧ t.geEb = 0#32 ∧ t.geState = .good) := by
    rw [h.cfg_eq]
    obtain ⟨⟨hgb, hbg, heg, heb, hf⟩, hstate⟩ | ⟨hf, legal⟩ := h.ge
    · rw [hgb, hbg, heg, heb, hf]
      refine ⟨hge, fun hv => ?_⟩
      rw [hstate.resolve_right (by simp [hv])]
      exact hgeUnset hv
    · exact ⟨by simpa using legal, by simp [hf]⟩
  exact ⟨⟨bsc.1, ge.1⟩, bsc.2, ge.2⟩

/-- Settles O58: the host writes none of the registers the invariant speaks of. -/
theorem stepKeepsChannelInvariant : Obligations.StepKeepsChannelInvariant := by
  intro s t
  refine step_keeps (Inv := ChannelInv) id Completion.channelInv ?host
    fun s => channelInv_resetWith s.cfg
  case host =>
    intro s t h hs
    obtain ⟨⟨-, -, -, hstate, hcfg, -⟩, ⟨hber, hbsc, hgb, hbg, heg, heb, hge⟩, -⟩ := hostStep_frame h
    rwa [ChannelInv, hstate, hcfg, hber, hbsc, hgb, hbg, heg, heb, hge]

/-- The buffer invariant speaks of the lengths of the outputs and the parameters alone. -/
theorem bufferInv_congr {s t : State} (ho : t.out = s.out) (hf : t.flags = s.flags) (hc : t.cfg = s.cfg)
    (hs : BufferInv s) : BufferInv t := by
  rwa [BufferInv, ho, hf, hc]

/-- Settles O59: only completions write OBUF and FBUF. -/
theorem stepKeepsBufferInvariant : Obligations.StepKeepsBufferInvariant := by
  intro s t
  refine step_keeps (Inv := BufferInv) id ?core ?host fun s => bufferInv_resetWith s.cfg
  case core =>
    intro s t h hs
    obtain ⟨ho, hf⟩ | fits := h.output
    · exact bufferInv_congr ho hf h.cfg_eq hs
    · exact fits
  case host =>
    intro s t h hs
    obtain ⟨⟨ho, hf, -, -, hcfg, -⟩, -⟩ := hostStep_frame h
    exact bufferInv_congr ho hf hcfg hs

end Sys2Proof.Machine

/-! PROOFS. The host's accesses to the window (spec 20_memory.md): the address map, what each access answers and leaves
alone, which agent writes what, and the host's byte convention. -/

namespace Sys2Proof.Machine

/-! ### The address map (20_memory.md R64 to R66) -/

/-- The window has what a host program names: any register, and the words of a buffer that lie below the next buffer
(20_memory.md R60, R65). -/
def Target.Mapped (p : Params) : Target → Prop
  | .reg _ => True
  | .ibuf k => k < p.ibufBits / 32 ∧ (Target.ibuf k).addr < obufBase
  | .obuf k => k < p.obufBits / 32 ∧ (Target.obuf k).addr < fbufBase
  | .fbuf k => k < p.fbufBits / 32

theorem RegName.offset_lt (r : RegName) : r.offset < 0x050 := by
  cases r <;> decide

theorem Target.addr_mod_four (x : Target) : x.addr % 4 = 0 := by
  cases x with
  | reg r => cases r <;> rfl
  | ibuf k | obuf k | fbuf k => simp only [Target.addr, ibufBase, obufBase, fbufBase]; omega

/-- The address of a word a buffer has names that word. -/
theorem bufferIndex_word (base : Nat) {bits k : Nat} (hk : k < bits / 32) :
    bufferIndex base bits (base + 4 * k) = some k :=
  (bufferIndex_eq_some_iff _ _ _ _).2 ⟨by omega, by omega, hk⟩

/-- The address map in both directions: an access reaches a mapped place exactly when it is of 32 bits and at its
address. -/
theorem locate_eq_some_iff (p : Params) (addr width : Nat) (x : Target) :
    locate p addr width = some x ↔ width = 4 ∧ addr = x.addr ∧ x.Mapped p := by
  constructor
  · intro h
    obtain ⟨hw, ha⟩ := locate_aligned h
    refine ⟨hw, ?_⟩
    simp only [locate, hw, ha, true_and, if_true] at h
    split_ifs at h <;> simp only [Option.map_eq_some_iff, regAt_eq_some_iff, bufferIndex_eq_some_iff] at h
    · obtain ⟨r, rfl, rfl⟩ := h
      exact ⟨rfl, trivial⟩
    all_goals
      obtain ⟨k, ⟨hbase, rfl, hk⟩, rfl⟩ := h
      simp only [Target.Mapped, Target.addr, ibufBase, obufBase, fbufBase] at *
      omega
  · rintro ⟨rfl, rfl, hx⟩
    cases x with
    | reg r => exact (locate_reg_iff _ _ _ _).2 ⟨rfl, rfl⟩
    | ibuf k | obuf k | fbuf k =>
      simp only [Target.Mapped, Target.addr, ibufBase, obufBase, fbufBase] at hx
      rw [locate, if_pos ⟨rfl, Target.addr_mod_four _⟩]
      simp (disch := omega) only [Target.addr, ibufBase, obufBase, fbufBase, if_pos, if_neg, bufferIndex_word,
        Option.map_some]

theorem locate_addr {p : Params} {x : Target} (hx : x.Mapped p) : locate p x.addr 4 = some x :=
  (locate_eq_some_iff _ _ _ _).2 ⟨rfl, rfl, hx⟩

/-- An access at an address no mapped place has reaches nothing. -/
theorem locate_eq_none {p : Params} {addr width : Nat} (h : ∀ x : Target, x.Mapped p → addr ≠ x.addr) :
    locate p addr width = none :=
  Option.eq_none_iff_forall_ne_some.2 fun x hx =>
    have ⟨_, haddr, hmapped⟩ := (locate_eq_some_iff _ _ _ _).1 hx
    h x hmapped haddr

/-- No mapped place lies in the reserved ranges: between the registers and IBUF, or past the end of a buffer
(20_memory.md R64, R65). -/
theorem locate_reserved {p : Params} {addr : Nat} (width : Nat)
    (h : 0x050 ≤ addr ∧ addr < 0x100000 ∨
      0x100000 + 4 * (p.ibufBits / 32) ≤ addr ∧ addr < 0x200000 ∨
      0x200000 + 4 * (2 * p.ibufBits / 32) ≤ addr ∧ addr < 0x300000 ∨
      0x300000 + 4 * (p.ibufBits / 32) ≤ addr) : locate p addr width = none := by
  refine locate_eq_none fun x hx haddr => ?_
  cases x with
  | reg r =>
    have := r.offset_lt
    simp only [Target.addr] at haddr
    omega
  | ibuf k | obuf k | fbuf k =>
    simp only [Target.Mapped, Target.addr, ibufBase, obufBase, fbufBase, Params.obufBits, Params.fbufBits] at hx haddr
    omega

/-! ### What an access answers while the core is not busy (20_memory.md R66 to R70) -/

section NotBusy

variable {s : State} {addr width : Nat} (hb : s.busy = false)
include hb

theorem busRead_of_unmapped (hl : locate s.cfg addr width = none) : busRead addr width s = .error .busError := by
  simp [busRead, State.blocked, hb, hl]

theorem busWrite_of_unmapped (v : Word) (hl : locate s.cfg addr width = none) :
    busWrite addr width v s = .error .busError := by
  simp [busWrite, State.blocked, hb, hl]

theorem busRead_reg_unreadable {r : RegName} (hr : s.regRead r = none) :
    busRead r.offset 4 s = .error .busError := by
  simp [busRead, State.blocked, hb, (locate_reg_iff s.cfg r.offset 4 r).2 ⟨rfl, rfl⟩, hr]

theorem busWrite_reg {r : RegName} {v : Word} {t : State} (hr : s.regWrite v r = some t) :
    busWrite r.offset 4 v s = .ok t := by
  simp [busWrite, State.blocked, hb, (locate_reg_iff s.cfg r.offset 4 r).2 ⟨rfl, rfl⟩, hr]

theorem busWrite_reg_readOnly {r : RegName} {v : Word} (hr : s.regWrite v r = none) :
    busWrite r.offset 4 v s = .error .busError := by
  simp [busWrite, State.blocked, hb, (locate_reg_iff s.cfg r.offset 4 r).2 ⟨rfl, rfl⟩, hr]

theorem busRead_ibuf {k : Nat} {v : Word} (hk : (Target.ibuf k).Mapped s.cfg) (hv : s.ibufWord k = some v) :
    busRead (Target.ibuf k).addr 4 s = .ok (v, s) := by
  simp [busRead, State.blocked, hb, locate_addr hk, hv]

theorem busRead_ibuf_unwritten {k : Nat} (hk : (Target.ibuf k).Mapped s.cfg) (hv : s.ibufWord k = none) :
    busRead (Target.ibuf k).addr 4 s = .error .uninitializedInput := by
  simp [busRead, State.blocked, hb, locate_addr hk, hv]

theorem busWrite_ibuf {k : Nat} (v : Word) (hk : (Target.ibuf k).Mapped s.cfg) :
    busWrite (Target.ibuf k).addr 4 v s = .ok (s.setMem (s.mem.writeWord (ibufBase + 4 * k) v)) := by
  simp [busWrite, State.blocked, hb, locate_addr hk]

theorem busRead_obuf {k : Nat} (hk : (Target.obuf k).Mapped s.cfg) :
    busRead (Target.obuf k).addr 4 s = .ok (s.readOutputWord s.out k) := by
  simp [busRead, State.blocked, hb, locate_addr hk]

theorem busRead_fbuf {k : Nat} (hk : (Target.fbuf k).Mapped s.cfg) :
    busRead (Target.fbuf k).addr 4 s = .ok (s.readOutputWord s.flags k) := by
  simp [busRead, State.blocked, hb, locate_addr hk]

end NotBusy

/-- Settles O11: such an access reaches nothing. -/
theorem onlyAlignedWordAccesses : Obligations.OnlyAlignedWordAccesses := by
  intro s addr width v hb hbad
  have hl : locate s.cfg addr width = none :=
    Option.eq_none_iff_forall_ne_some.2 fun x hx => by
      obtain ⟨hw, ha⟩ := locate_aligned hx
      exact hbad.elim (absurd hw) (absurd ha)
  exact ⟨busRead_of_unmapped hb hl, busWrite_of_unmapped hb v hl⟩

/-- Settles O13: each of the six is a register that a host write stores and a host read answers. -/
theorem readWriteRegistersReadBack : Obligations.ReadWriteRegistersReadBack := by
  intro s v hb
  have readsBack : ∀ (r : RegName) {t : State}, s.regWrite v r = some t → t.busy = false → t.regRead r = some v →
      busWrite r.offset 4 v s = .ok t ∧ busRead r.offset 4 t = .ok (v, t) :=
    fun r t hw ht hr => ⟨busWrite_reg hb hw, busRead_reg (.inl ht) hr⟩
  exact ⟨readsBack .inLen rfl hb rfl, readsBack .tbDepth rfl hb rfl, readsBack .param0 rfl hb rfl,
    readsBack .param1 rfl hb rfl, readsBack .param2 rfl hb rfl, readsBack .param3 rfl hb rfl⟩

/-- A write that would reach OBUF, FBUF or nothing at all is a bus error (20_memory.md R67,
log entry 15). -/
theorem busWrite_above_ibuf {s : State} {addr : Nat} (width : Nat) (v : Word) (hb : s.busy = false)
    (h : obufBase ≤ addr) : busWrite addr width v s = .error .busError := by
  cases hl : locate s.cfg addr width with
  | none => exact busWrite_of_unmapped hb v hl
  | some x =>
    obtain ⟨-, haddr, hx⟩ := (locate_eq_some_iff _ _ _ _).1 hl
    cases x with
    | reg r =>
      have := r.offset_lt
      simp only [Target.addr, obufBase] at haddr h
      omega
    | ibuf k => exact absurd (haddr ▸ hx.2) (Nat.not_lt.2 h)
    | obuf k | fbuf k => simp [busWrite, State.blocked, hb, hl]

/-- The registers a host write stores, CMD among them; the others are read-only (10_state.md R23). -/
theorem State.regWrite_eq_none_iff (s : State) (v : Word) (r : RegName) :
    s.regWrite v r = none ↔ r ∉ [RegName.cmd, .inLen, .tbDepth, .param0, .param1, .param2, .param3] := by
  cases r <;> simp [State.regWrite]

/-- Settles O12: the reserved ranges reach nothing, and the other places cannot be accessed that way. -/
theorem reservedAndReadOnlyAccessesFault : Obligations.ReservedAndReadOnlyAccessesFault := by
  intro s addr v hb
  have readOnly : ∀ a ∈ [RegName.status, .outLen, .flagLen, .hamCnt, .geState, .bscBer, .gePgb, .gePbg, .geEg, .geEb,
      .id, .capIbuf, .capProbw].map RegName.offset, busWrite a 4 v s = .error .busError :=
    List.forall_mem_map.2 fun r hr => busWrite_reg_readOnly hb ((s.regWrite_eq_none_iff v r).2 (by revert r; decide))
  refine ⟨fun h => ?_, readOnly addr, busRead_reg_unreadable (r := .cmd) hb rfl,
    fun h => busWrite_above_ibuf 4 v hb h.1⟩
  have hl := locate_reserved 4 h
  exact ⟨busRead_of_unmapped hb hl, busWrite_of_unmapped hb v hl⟩

/-! ### IBUF (20_memory.md R68) -/

theorem ibufBits_le_of_wf {p : Params} (h : p.wf = true) : p.ibufBits ≤ 2 ^ 22 := by
  simp only [Params.wf, Bool.and_eq_true, decide_eq_true_eq] at h
  exact h.1.1.2

/-- With legal parameters IBUF does not reach into OBUF's window (00_scope.md R6, 20_memory.md R65). -/
theorem Target.mapped_ibuf {p : Params} {k : Nat} (hp : p.wf = true) (hk : k < p.ibufBits / 32) :
    (Target.ibuf k).Mapped p := by
  have := ibufBits_le_of_wf hp
  simp only [Target.Mapped, Target.addr, ibufBase, obufBase]
  omega

/-- So with OBUF, which at the greatest IBUF_BITS just fills its window. -/
theorem Target.mapped_obuf {p : Params} {k : Nat} (hp : p.wf = true) (hk : k < p.obufBits / 32) :
    (Target.obuf k).Mapped p := by
  have := ibufBits_le_of_wf hp
  simp only [Target.Mapped, Target.addr, Params.obufBits, obufBase, fbufBase] at *
  omega

/-- A word whose first byte is unwritten has no value (10_state.md R38). -/
theorem Memory.readWord_eq_none {m : Memory} {a : Nat} (h : m.read a = none) : m.readWord a = none := by
  simp [Memory.readWord, h]

/-- Settles O16, by the rules of a word write. -/
theorem ibufWordReadsBack : Obligations.IbufWordReadsBack := by
  intro s k v hp hb hk
  have mapped := Target.mapped_ibuf hp hk
  refine ⟨⟨s.mem.writeWord (ibufBase + 4 * k) v, busWrite_ibuf hb v mapped, ?_, fun a ha => ?_⟩, fun hfirst => ?_⟩
  · exact busRead_ibuf (s := s.setMem (s.mem.writeWord (ibufBase + 4 * k) v)) hb mapped
      (Memory.readWord_writeWord_self _ _ _)
  · exact Memory.read_writeWord_of_outside _ v ha
  · exact busRead_ibuf_unwritten hb mapped (Memory.readWord_eq_none hfirst)

/-! ### OBUF and FBUF (20_memory.md R62, R69) -/

/-- Bit 31-j of a buffer's word is bit 32k+j of its contents, or the any-value bit there. -/
theorem bufferWord_getLsbD (valid : Bits) (k : Nat) (free : Word) {j : Nat} (hj : j < 32) :
    (bufferWord valid k free).getLsbD (31 - j) = valid.getD (32 * k + j) (free.getLsbD (31 - j)) := by
  have hback : 31 - (31 - j) = j := by omega
  have hlt : 31 - j < 32 := by omega
  simp [bufferWord, wordOfBits, BitVec.getMsbD, hback, hlt, hj]

/-- What a read of a word of OBUF or FBUF answers: its valid bits, and past them the oldest word queued for the
any-value bits; of the state only the source of these moves (20_memory.md R69). -/
theorem State.readOutputWord_spec (s : State) (valid : Bits) (k : Nat) :
    ∃ w t, s.readOutputWord valid k = (w, t) ∧ t = { s with anyBits := t.anyBits } ∧
      ∀ j < 32, (∀ b, valid[32 * k + j]? = some b → w.getLsbD (31 - j) = b) ∧
        (valid.length ≤ 32 * k + j → ∀ x rest, s.anyBits.queue = x :: rest →
          w.getLsbD (31 - j) = x.getLsbD (31 - j)) := by
  refine ⟨bufferWord valid k (s.anyBits.next Config.freeTail).1, s.setAnyBits (s.anyBits.next Config.freeTail).2, rfl,
    rfl, fun j hj => ⟨fun b hvalid => ?_, fun hpast x rest hqueue => ?_⟩⟩
  · rw [bufferWord_getLsbD _ _ _ hj, List.getD, hvalid, Option.getD_some]
  · rw [bufferWord_getLsbD _ _ _ hj, List.getD_eq_default _ _ hpast]
    simp [FreePort.next, hqueue]

/-- Settles O17: both buffers are read in the same way. -/
theorem outputBuffersReadValidBits : Obligations.OutputBuffersReadValidBits := by
  intro s k hp hb
  constructor
  · intro hk
    obtain ⟨w, t, hread, h⟩ := s.readOutputWord_spec s.out k
    exact ⟨w, t, (busRead_obuf hb (Target.mapped_obuf hp hk)).trans (congrArg _ hread), h⟩
  · intro hk
    obtain ⟨w, t, hread, h⟩ := s.readOutputWord_spec s.flags k
    exact ⟨w, t, (busRead_fbuf hb hk).trans (congrArg _ hread), h⟩

/-! ### What an access leaves alone (20_memory.md R68, R70, R71) -/

/-- A read below OBUF changes nothing at all. -/
theorem busRead_below_obuf {addr width : Nat} {s t : State} {v : Word} (h : busRead addr width s = .ok (v, t))
    (haddr : addr < obufBase) : t = s := by
  have output : ∀ x : Target, locate s.cfg addr width = some x → obufBase ≤ x.addr → t = s := fun x hl hx =>
    absurd ((locate_eq_some_iff _ _ _ _).1 hl).2.1 (Nat.ne_of_lt (Nat.lt_of_lt_of_le haddr hx))
  simp only [busRead] at h
  split at h
  · cases h
  · split at h
    · cases h
    · split at h <;> cases h; rfl
    · split at h <;> cases h; rfl
    · exact output _ ‹_› (Nat.le_add_right _ _)
    · exact output _ ‹_› ((by decide : obufBase ≤ fbufBase).trans (Nat.le_add_right _ _))

/-- Settles O18: a read that changes nothing is the same read when it is made again. -/
theorem hostReadsChangeNothing : Obligations.HostReadsChangeNothing := by
  intro s t addr width v h
  refine ⟨?_, fun haddr => ?_⟩
  · obtain rfl | rfl := busRead_ok h <;> rfl
  · obtain rfl := busRead_below_obuf h haddr
    refine ⟨rfl, fun w u hagain => ?_⟩
    rw [h] at hagain
    cases hagain
    rfl

/-- A register write changes none but the registers the host writes, STATUS and PENDING (10_state.md R23). -/
theorem State.regWrite_frame {s t : State} {v : Word} {r : RegName} (h : s.regWrite v r = some t) :
    t = { s with
      busy := t.busy, done := t.done, err := t.err, pending := t.pending, inLen := t.inLen, tbDepth := t.tbDepth,
      param0 := t.param0, param1 := t.param1, param2 := t.param2, param3 := t.param3 } := by
  cases r <;> cases h <;> rfl

/-- Of those it changes only what its own offset names (20_memory.md R70, 30_encoding.md R95). -/
theorem State.regWrite_other {s t : State} {v : Word} {r : RegName} (h : s.regWrite v r = some t) :
    (r.offset ≠ 0x000 → t.busy = s.busy ∧ t.done = s.done ∧ t.err = s.err ∧ t.pending = s.pending) ∧
    (r.offset ≠ 0x008 → t.inLen = s.inLen) ∧ (r.offset ≠ 0x014 → t.tbDepth = s.tbDepth) ∧
    (r.offset ≠ 0x020 → t.param0 = s.param0) ∧ (r.offset ≠ 0x024 → t.param1 = s.param1) ∧
    (r.offset ≠ 0x028 → t.param2 = s.param2) ∧ (r.offset ≠ 0x02C → t.param3 = s.param3) := by
  cases r <;> cases h <;> simp [RegName.offset]

/-- Settles O19: a register write leaves memory alone, and an IBUF write everything but its own word. -/
theorem hostWriteFrame : Obligations.HostWriteFrame := by
  intro s t addr width v h
  obtain ⟨-, ⟨r, rfl, hr⟩ | ⟨k, rfl, -, rfl⟩⟩ := busWrite_ok h
  · have other := State.regWrite_other hr
    rw [State.regWrite_frame hr]
    exact ⟨fun _ _ => rfl, ⟨rfl, rfl⟩, ⟨rfl, rfl⟩, ⟨rfl, rfl, rfl, rfl, rfl⟩, rfl, rfl, ⟨rfl, rfl, rfl, rfl, rfl⟩, rfl,
      other⟩
  · refine ⟨fun a ha => Memory.read_writeWord_of_outside _ v ?_, ⟨rfl, rfl⟩, ⟨rfl, rfl⟩, ⟨rfl, rfl, rfl, rfl, rfl⟩, rfl,
      rfl, ⟨rfl, rfl, rfl, rfl, rfl⟩, rfl, fun _ => ⟨rfl, rfl, rfl, rfl⟩, fun _ => rfl, fun _ => rfl, fun _ => rfl,
      fun _ => rfl, fun _ => rfl, fun _ => rfl⟩
    simp only [ibufBase] at ha ⊢
    omega

/-! ### Who moves, and what each agent writes (20_memory.md R73) -/

/-- Settles O6, by who the next turn's agent is and what the turn leaves of the schedule. -/
theorem hostMovesWhenNothingIsPending : Obligations.HostMovesWhenNothingIsPending := by
  intro s
  refine ⟨fun hnil hnone => ?_, fun rest hhost => ?_, fun rest hcore hnone => ?_⟩
  · rw [step, agentStep, s.nextTurn_host_iff.2 (.inr ⟨hnil, hnone⟩), State.afterTurn_of_nil hnil, turnStep]
  · rw [step, agentStep, s.nextTurn_host_iff.2 (.inl (by rw [hhost]; rfl)), State.afterTurn_of_cons hhost, turnStep]
  · rw [step, agentStep, s.nextTurn_core_iff.2 (.inl (by rw [hcore]; rfl)), State.afterTurn_of_cons hcore, turnStep,
      coreStep, hnone]

theorem opcodeOf_of_instrOfOpcode : ∀ op : BitVec 4, ∀ i ∈ instrOfOpcode op, opcodeOf i = op := by
  decide

/-- A word that decodes is the word of its command (30_encoding.md R91). -/
theorem encode_eq_of_decode {w : Word} {i : Instr} (h : decode w = .ok i) : encode i = w := by
  unfold decode at h
  split at h
  · rename_i hreserved
    split at h
    · rename_i hop
      cases h
      rw [encode, opcodeOf_of_instrOfOpcode _ _ hop, ← hreserved]
      exact BitVec.extractLsb'_append_extractLsb' (w := 28) (len := 4)
    · cases h
  · cases h

theorem Completes.nextTurn_eq {s : State} {i : Instr} (h : Completes s i) : s.nextTurn = .core := by
  obtain ⟨hpending, hturn⟩ := h
  exact s.nextTurn_core_iff.2 (hturn.symm.imp id fun hnil => ⟨hnil, by simp [hpending]⟩)

/-- On the core's turn, with a pending word that decodes, its command completes. -/
theorem completes_of_decode {s : State} {w : Word} {i : Instr} (hturn : s.nextTurn = .core) (hp : s.pending = some w)
    (hd : decode w = .ok i) : Completes s i :=
  ⟨by rw [encode_eq_of_decode hd, hp], (s.nextTurn_core_iff.1 hturn).symm.imp And.left id⟩

theorem Completion.hostRegs {s t : State} (h : Completion s t) : SameHostRegs s t := by
  cases h <;> exact ⟨rfl, rfl, rfl, rfl, rfl, rfl⟩

/-- The core writes neither IBUF nor the host's registers nor the parameters, and leaves nothing pending. -/
theorem coreStep_frame {s t : State} (h : coreStep s = .next t) :
    SameMemory s t ∧ SameHostRegs s t ∧ t.cfg = s.cfg ∧ t.pending = none := by
  obtain ⟨hp, rfl⟩ | ⟨w, e, -, -, rfl⟩ | ⟨w, i, -, -, hx⟩ := coreStep_next_cases h
  · exact ⟨fun _ => rfl, ⟨rfl, rfl, rfl, rfl, rfl, rfl⟩, rfl, hp⟩
  · exact ⟨fun _ => rfl, ⟨rfl, rfl, rfl, rfl, rfl, rfl⟩, rfl, rfl⟩
  · have done := exec_completion hx
    exact ⟨fun a => by rw [done.mem_eq], done.hostRegs, done.cfg_eq, done.completed.2.2⟩

/-- The three commands without an output leave OBUF and FBUF alone (30_encoding.md R99). -/
theorem exec_sameOutput {i : Instr} {s t : State} (h : exec i s = .next t)
    (hi : i = .hamCntClr ∨ i = .bscCfg ∨ i = .geCfg) : SameOutput s t := by
  obtain rfl | rfl | rfl := hi
  · obtain rfl := (exec_hamCntClr_next s t).1 h
    exact ⟨rfl, rfl⟩
  · obtain ⟨e, -, rfl⟩ | ⟨-, rfl⟩ := (exec_bscCfg_next s t).1 h <;> exact ⟨rfl, rfl⟩
  · obtain ⟨e, -, rfl⟩ | ⟨-, rfl⟩ := (exec_geCfg_next s t).1 h <;> exact ⟨rfl, rfl⟩

/-- The core changes OBUF or FBUF only by a command that has an output. -/
theorem coreStep_output {s t : State} (h : coreStep s = .next t) (hout : ¬ SameOutput s t) :
    ∃ w i, s.pending = some w ∧ decode w = .ok i ∧ i ≠ .hamCntClr ∧ i ≠ .bscCfg ∧ i ≠ .geCfg := by
  obtain ⟨-, rfl⟩ | ⟨w, e, -, -, rfl⟩ | ⟨w, i, hp, hd, hx⟩ := coreStep_next_cases h
  · exact absurd ⟨rfl, rfl⟩ hout
  · exact absurd ⟨rfl, rfl⟩ hout
  · have hi := mt (exec_sameOutput hx) hout
    exact ⟨w, i, hp, hd, by simpa only [not_or] using hi⟩

/-- Settles O52: the step is the core's or the host's, and each writes its own. -/
theorem whoWritesWhat : Obligations.WhoWritesWhat := by
  intro s t h hreset
  obtain ⟨hturn, hcore⟩ | ⟨hturn, hhost⟩ | ⟨hturn, -⟩ := step_next_cases h
  · obtain ⟨hmem, hregs, hcfg, hpending⟩ := coreStep_frame hcore
    refine ⟨fun _ _ => ⟨hmem, hregs⟩, fun hout => ?_, hcfg, fun w _ hw => ?_⟩
    · obtain ⟨w, i, hp, hd, hi⟩ := coreStep_output hcore hout
      exact ⟨i, completes_of_decode hturn hp hd, hi⟩
    · rw [hpending] at hw
      cases hw
  · obtain ⟨⟨hout, hflags, -, -, hcfg, -⟩, -, hstatus, -⟩ := hostStep_frame hhost
    refine ⟨fun i hi => ?_, fun hchanged => absurd ⟨hout, hflags⟩ hchanged, hcfg, fun w hnone hw => ?_⟩
    · rw [hi.nextTurn_eq] at hturn
      cases hturn
    · obtain ⟨-, -, -, hsame⟩ | ⟨hbusy, hdone, herr, -⟩ := hstatus
      · cases (hsame.symm.trans hw).symm.trans hnone
      · exact ⟨hbusy, hdone, herr⟩
  · exact absurd (s.nextTurn_reset_iff.1 hturn) hreset

/-! ### The host's byte convention (20_memory.md R63) -/

@[simp] theorem byteBits_length (b : Byte) : (byteBits b).length = 8 := by
  simp [byteBits]

theorem byteBits_getElem? (b : Byte) {j : Nat} (hj : j < 8) : (byteBits b)[j]? = some (b.getLsbD (7 - j)) := by
  simp [byteBits, BitVec.getMsbD, hj]

/-- Bit 8k+j of an expansion is bit 7-j of byte k. -/
theorem bytesToBits_getElem? {bytes : List Byte} {k j : Nat} {b : Byte} (hb : bytes[k]? = some b) (hj : j < 8) :
    (bytesToBits bytes)[8 * k + j]? = some (b.getLsbD (7 - j)) := by
  induction bytes generalizing k with
  | nil => cases hb
  | cons c rest ih =>
    rw [bytesToBits]
    cases k with
    | zero =>
      cases hb
      rw [List.getElem?_append_left (by simp; omega), Nat.mul_zero, Nat.zero_add, byteBits_getElem? _ hj]
    | succ k =>
      rw [List.getElem?_append_right (by simp; omega), byteBits_length, ← ih hb]
      congr 1
      omega

/-- Four bytes pack into the word with the first byte at the top. -/
theorem packWord_bytesToBits (b0 b1 b2 b3 : Byte) :
    packWord (bytesToBits [b0, b1, b2, b3]) 0 = b0 ++ b1 ++ b2 ++ b3 := by
  apply BitVec.eq_of_getLsbD_eq
  intro i hi
  have bit : ∀ k b, [b0, b1, b2, b3][k]? = some b → ∀ j < 8, i + 8 * k = 24 + j →
      (packWord (bytesToBits [b0, b1, b2, b3]) 0).getLsbD i = b.getLsbD j := by
    intro k b hb j hj hij
    have hk : k < 4 := (List.getElem?_eq_some_iff.1 hb).1
    have hpos : i = 31 - (8 * k + (7 - j)) := by omega
    have hback : 7 - (7 - j) = j := by omega
    rw [hpos, packWord, bufferWord_getLsbD _ _ _ (by omega), Nat.mul_zero, Nat.zero_add, List.getD,
      bytesToBits_getElem? hb (by omega), Option.getD_some, hback]
  simp only [BitVec.getLsbD_append]
  split_ifs
  · exact bit 3 b3 rfl _ (by omega) (by omega)
  · exact bit 2 b2 rfl _ (by omega) (by omega)
  · exact bit 1 b1 rfl _ (by omega) (by omega)
  · exact bit 0 b0 rfl _ (by omega) (by omega)

/-- The eight bits of a byte make the byte. -/
theorem ofBoolListBE_byteBits (b : Byte) : BitVec.ofBoolListBE (byteBits b) = b := by
  apply BitVec.eq_of_getMsbD_eq
  intro i (hi : i < 8)
  have hbit : b.getMsbD i = b.getLsbD (7 - i) := by simp [BitVec.getMsbD, hi]
  rw [BitVec.getMsbD_ofBoolListBE, List.getD, byteBits_getElem? b hi, Option.getD_some]
  exact hbit.symm

theorem bitsToBytes_byteBits_append (b : Byte) (rest : Bits) :
    bitsToBytes (byteBits b ++ rest) = (bitsToBytes rest).map (b :: ·) :=
  congrArg (fun c => (bitsToBytes rest).map (c :: ·)) (ofBoolListBE_byteBits b)

theorem bitsToBytes_bytesToBits (bytes : List Byte) : bitsToBytes (bytesToBits bytes) = some bytes := by
  induction bytes with
  | nil => rfl
  | cons b rest ih => rw [bytesToBits, bitsToBytes_byteBits_append, ih, Option.map_some]

theorem bitsToBytes_eq_none_iff (b : Bits) : bitsToBytes b = none ↔ b.length % 8 ≠ 0 := by
  induction b using bitsToBytes.induct with
  | case1 => simp [bitsToBytes]
  | case2 b0 b1 b2 b3 b4 b5 b6 b7 rest ih =>
    rw [bitsToBytes, Option.map_eq_none_iff, ih]
    simp only [List.length_cons]
    omega
  | case3 b hnil hblock =>
    match b, hnil, hblock with
    | [_], _, _ | [_, _], _, _ | [_, _, _], _, _ | [_, _, _, _], _, _ | [_, _, _, _, _], _, _ | [_, _, _, _, _, _], _, _
    | [_, _, _, _, _, _, _], _, _ => simp [bitsToBytes]
    | b0 :: b1 :: b2 :: b3 :: b4 :: b5 :: b6 :: b7 :: rest, _, hblock =>
      exact absurd rfl (hblock b0 b1 b2 b3 b4 b5 b6 b7 rest)

/-- Settles O60, clause by clause. -/
theorem hostByteConvention : Obligations.HostByteConvention :=
  ⟨fun _ _ _ _ => bytesToBits_getElem?, packWord_bytesToBits, bitsToBytes_bytesToBits, bitsToBytes_eq_none_iff⟩

end Sys2Proof.Machine

/-! PROOFS. The commands as words and as steps (spec 30_encoding.md): decoding and encoding, issue, what the pending word
completes as, and the host's operations. -/

namespace Sys2Proof.Machine

/-! ### Decoding and encoding (30_encoding.md R90, R91, R94) -/

theorem decode_encode (i : Instr) : decode (encode i) = .ok i := by
  cases i <;> rfl

/-- The words that decode are the words of the commands. -/
theorem decode_eq_ok_iff (w : Word) (i : Instr) : decode w = .ok i ↔ encode i = w :=
  ⟨encode_eq_of_decode, fun h => h ▸ decode_encode i⟩

/-- The commands in the order of R91's table. -/
def commandTable : List Instr :=
  [.hamEncBlk, .hamDecBlk, .hamEncSeq, .hamDecSeq, .hamCntClr, .convEnc, .vitDec, .bscCfg, .bscTx, .geCfg, .geTx]

theorem mem_commandTable (i : Instr) : i ∈ commandTable := by
  cases i <;> decide

/-- Settles O1: a word decodes to a command exactly when it is that command's word, and the table pairs each command with its
word. -/
theorem decoderAcceptsExactlyTheElevenWords : Obligations.DecoderAcceptsExactlyTheElevenWords := by
  intro w i
  rw [decode_eq_ok_iff]
  change encode i = w ↔ (i, w) ∈ commandTable.map fun j => (j, encode j)
  simp [mem_commandTable]

/-- Settles O2, command by command. -/
theorem encodedCommandDecodesToItself : Obligations.EncodedCommandDecodesToItself := decode_encode

/-- Settles O3: the six words are those of their commands. -/
theorem sampleWordsDecode : Obligations.SampleWordsDecode :=
  ⟨decode_encode .hamEncBlk, decode_encode .hamDecSeq, decode_encode .convEnc, decode_encode .vitDec,
    decode_encode .bscTx, decode_encode .geTx⟩

theorem commandWordWf_encode (i : Instr) : commandWordWf (encode i) = true := by
  cases i <;> decide

/-- A word that is no legal command word does not decode (30_encoding.md R94). -/
theorem decode_of_illegal {w : Word} (h : commandWordWf w = false) : ∃ e, decode w = .error e := by
  cases hd : decode w with
  | error e => exact ⟨e, rfl⟩
  | ok i =>
    rw [← encode_eq_of_decode hd, commandWordWf_encode] at h
    cases h

/-- The illegal words by their fields: reserved bits set, or a reserved opcode (30_encoding.md R94). -/
theorem commandWordWf_eq_false_iff (w : Word) :
    commandWordWf w = false ↔ w.toNat / 16 ≠ 0 ∨ w.toNat % 16 = 0 ∨ 12 ≤ w.toNat % 16 := by
  simp only [commandWordWf, ← Bool.not_eq_true, Bool.and_eq_true, beq_iff_eq, decide_eq_true_eq]
  omega

/-! ### Issue and completion (30_encoding.md R94 to R96) -/

theorem completeWord_of_illegal {w : Word} (h : commandWordWf w = false) (s : State) :
    completeWord w s = .next (endedWith s .illegalCommand) := by
  obtain ⟨e, he⟩ := decode_of_illegal h
  rw [completeWord, he]
  rfl

theorem coreStep_of_pending {s : State} {w : Word} (hp : s.pending = some w) : coreStep s = completeWord w s := by
  rw [coreStep, hp]

theorem coreStep_of_decode {s : State} {w : Word} {i : Instr} (hp : s.pending = some w) (hd : decode w = .ok i) :
    coreStep s = exec i s := by
  rw [coreStep_of_pending hp, completeWord, hd]

/-- Settles O5: an illegal word does not decode, and a completion of it is the error alone. -/
theorem illegalWordCompletesWithIllegalCommand : Obligations.IllegalWordCompletesWithIllegalCommand := by
  intro s w hp hw
  rw [coreStep_of_pending hp, completeWord_of_illegal ((commandWordWf_eq_false_iff w).2 hw), endedWith]

/-- On the core's turn a step runs the command of the pending word, in the state less that turn. -/
theorem step_of_decode {s : State} {w : Word} {i : Instr} (hturn : s.nextTurn = .core) (hp : s.pending = some w)
    (hd : decode w = .ok i) : step s = exec i s.afterTurn := by
  rw [step, agentStep, hturn, turnStep, coreStep_of_decode (s := s.afterTurn) hp hd]

theorem step_of_core_turn {s : State} {w : Word} {i : Instr} {rest : List Turn} (hs : s.schedule = .core :: rest)
    (hp : s.pending = some w) (hd : decode w = .ok i) : step s = exec i { s with schedule := rest } := by
  rw [step_of_decode (s.nextTurn_core_iff.2 (.inl (by rw [hs]; rfl))) hp hd, State.afterTurn_of_cons hs]

theorem decode_of_decodeTableWord {nbits w : Nat} {i : Instr} (h : decodeTableWord nbits w = some i) :
    decode (tableWord nbits w) = .ok i := by
  unfold decodeTableWord at h
  split at h
  · cases h
    assumption
  · cases h

/-- Settles O4: in each of the three cases the turn is the core's. -/
theorem stepRunsTheDecodedCommand : Obligations.StepRunsTheDecodedCommand := by
  refine ⟨fun s w i hp hd => ⟨fun hnil => ?_, fun rest hs => step_of_core_turn hs hp hd⟩, fun s nbits w i h =>
    step_of_core_turn (s := s.withFetchWord nbits w) rfl rfl (decode_of_decodeTableWord h)⟩
  rw [step_of_decode (s.nextTurn_core_iff.2 (.inr ⟨hnil, by simp [hp]⟩)) hp hd, State.afterTurn_of_nil hnil]

/-- While BUSY no write is performed (70_reset_and_hazards.md R265). -/
theorem busWrite_of_busy {s : State} (hb : s.busy = true) (addr width : Nat) (v : Word) :
    busWrite addr width v s = .error .hostAccessWhileBusy := by
  simp [busWrite, State.blocked, hb]

/-- Settles O7: CMD is a register whose write issues. -/
theorem commandWriteIssues : Obligations.CommandWriteIssues := fun _ v =>
  ⟨fun hb => busWrite_reg (r := .cmd) (v := v) hb rfl, fun hb => busWrite_of_busy hb _ _ v⟩

theorem Completion.environment {s t : State} (h : Completion s t) : SameEnvironment s t := by
  cases h <;> exact ⟨rfl, rfl, rfl, rfl, rfl⟩

theorem Completion.memory {s t : State} (h : Completion s t) : SameMemory s t := fun a => by rw [h.mem_eq]

/-- With a word pending, the core's step completes it. -/
theorem completion_of_pending {s t : State} {w : Word} (hp : s.pending = some w) (h : coreStep s = .next t) :
    Completion s t := by
  obtain ⟨hnone, -⟩ | ⟨w, e, -, -, rfl⟩ | ⟨w, i, -, -, hx⟩ := coreStep_next_cases h
  · cases hp.symm.trans hnone
  · exact .failed _
  · exact exec_completion hx

/-- Settles O8, by what every completion does. -/
theorem completionClearsBusyAndPending : Obligations.CompletionClearsBusyAndPending := fun _ _ _ hp h =>
  have done := completion_of_pending hp h
  ⟨done.completed, done.memory, done.hostRegs, done.environment⟩

/-! ### The host's operations (30_encoding.md R102) -/

theorem HostAgent.value_assign_self (h : HostAgent) (x : Var) (v : Word) : (h.assign x v).value x = some v := by
  simp [HostAgent.value, HostAgent.assign]

theorem HostAgent.value_assign_of_ne (h : HostAgent) {x y : Var} (v : Word) (hy : y ≠ x) :
    (h.assign x v).value y = h.value y := by
  have skip : (y == x) = false := beq_false_of_ne hy
  have filtered : ∀ l : List (Var × Word), (l.filter fun e => e.1 != x).lookup y = l.lookup y := by
    intro l
    induction l with
    | nil => rfl
    | cons e rest ih =>
      obtain ⟨z, u⟩ := e
      by_cases hz : z = x
      · simp [hz, List.lookup_cons, skip, ih]
      · simp [hz, List.lookup_cons, ih]
  simp [HostAgent.value, HostAgent.assign, List.lookup_cons, skip, filtered]

theorem hostStep_of_op {s : State} {op : HostOp} (h : s.host.program[s.host.pc]? = some op) :
    hostStep s = performHostOp op s := by
  rw [hostStep, h]

theorem hostStep_of_end {s : State} (h : s.host.program[s.host.pc]? = none) : hostStep s = .next s := by
  rw [hostStep, h]

theorem State.withValue_of_some {s : State} {x : Var} {v : Word} (h : s.host.value x = some v) (k : Word → Result) :
    s.withValue x k = k v := by
  rw [State.withValue, h]

theorem State.withValue_of_none {s : State} {x : Var} (h : s.host.value x = none) (k : Word → Result) :
    s.withValue x k = .refused .hostVariableUnset := by
  rw [State.withValue, h]

theorem hostWrite_of_ok {s t : State} {addr width : Nat} {v : Word} (h : busWrite addr width v s = .ok t) :
    hostWrite addr width v s = .next (t.setHost t.host.advance) := by
  rw [hostWrite, h]

theorem hostWrite_of_error {s : State} {addr width : Nat} {v : Word} {f : Fault}
    (h : busWrite addr width v s = .error f) : hostWrite addr width v s = .fault f := by
  rw [hostWrite, h]

theorem hostRead_of_ok {s t : State} {addr width : Nat} {v : Word} (x : Var) (h : busRead addr width s = .ok (v, t)) :
    hostRead addr width x s = .next (t.setHost (t.host.assign x v).advance) := by
  rw [hostRead, h]

theorem hostRead_of_error {s : State} {addr width : Nat} {f : Fault} (x : Var) (h : busRead addr width s = .error f) :
    hostRead addr width x s = .fault f := by
  rw [hostRead, h]

/-- Settles O9, operation by operation. -/
theorem hostOperationsRunInOrder : Obligations.HostOperationsRunInOrder := by
  intro s
  refine ⟨?write, ?writeVar, ?read, ?branch, ?check, ?halt, ?writeFault, ?writeVarFault, ?readFault, ?unset⟩
  case write =>
    intro addr width v t hop hw
    rw [hostStep_of_op hop, performHostOp, hostWrite_of_ok hw]
    rfl
  case writeVar =>
    intro addr width x v t hop hx hw
    rw [hostStep_of_op hop, performHostOp, State.withValue_of_some hx, hostWrite_of_ok hw]
    rfl
  case read =>
    intro addr width x v t hop hr
    refine ⟨(t.host.assign x v).advance, ?_, t.host.value_assign_self x v, rfl, rfl,
      fun y hy => t.host.value_assign_of_ne v hy⟩
    rw [hostStep_of_op hop, performHostOp, hostRead_of_ok x hr]
    rfl
  case branch =>
    intro x v mask target hop hx
    rw [hostStep_of_op hop, performHostOp, State.withValue_of_some hx]
    by_cases hm : v &&& mask = 0#32
    · rw [if_neg (not_not.2 hm), if_pos hm]
      rfl
    · rw [if_pos hm, if_neg hm]
      rfl
  case check =>
    intro x v value mask hop hx
    rw [hostStep_of_op hop, performHostOp, State.withValue_of_some hx]
    by_cases hm : v &&& mask = value &&& mask <;>
      simp [hm, State.setHost, HostAgent.recordCheck, HostAgent.advance, HostAgent.goto]
  case halt =>
    rintro (hop | hend)
    · rw [hostStep_of_op hop, performHostOp]
    · exact hostStep_of_end hend
  case writeFault =>
    intro addr width v f hop hw
    rw [hostStep_of_op hop, performHostOp, hostWrite_of_error hw]
  case writeVarFault =>
    intro addr width x v f hop hx hw
    rw [hostStep_of_op hop, performHostOp, State.withValue_of_some hx, hostWrite_of_error hw]
  case readFault =>
    intro addr width x f hop hr
    rw [hostStep_of_op hop, performHostOp, hostRead_of_error x hr]
  case unset =>
    rintro x hx (⟨_, _, hop⟩ | ⟨_, _, hop⟩ | ⟨_, _, hop⟩) <;>
      rw [hostStep_of_op hop, performHostOp, State.withValue_of_none hx]

end Sys2Proof.Machine

/-! PROOFS. The validation of a command, its input and its frame (spec 30_encoding.md R93, R97 to R99). -/

namespace Sys2Proof.Machine

/-! ### The input (30_encoding.md R93) -/

theorem State.ibufBit_eq_some_iff (s : State) (i : Nat) (x : Bit) :
    s.ibufBit i = some x ↔ ∃ w, s.ibufWord (i / 32) = some w ∧ x = bitOfWord w i := by
  cases h : s.ibufWord (i / 32) <;> simp [State.ibufBit, h, eq_comm]

theorem State.input_eq_some_iff (s : State) (b : Bits) :
    s.input = some b ↔ b.length = s.len ∧
      ∀ i < s.len, ∃ w, s.ibufWord (i / 32) = some w ∧ b[i]? = some (bitOfWord w i) := by
  rw [State.input, State.ibufBits_eq_some_iff]
  refine and_congr_right fun hl => forall₂_congr fun i hi => ?_
  simp only [Nat.zero_add, List.getElem?_eq_getElem (hl ▸ hi), State.ibufBit_eq_some_iff, Option.some.injEq]

/-- The input is missing exactly where one of the words that hold it is unwritten. -/
theorem State.input_eq_none_iff (s : State) :
    s.input = none ↔ 0 < s.len ∧ ∃ k ≤ (s.len - 1) / 32, s.ibufWord k = none := by
  simp only [State.input, State.ibufBits_eq_none_iff, Nat.zero_add, State.ibufBit_eq_none_iff]
  constructor
  · rintro ⟨i, hi, h⟩
    exact ⟨by omega, i / 32, by omega, h⟩
  · rintro ⟨hpos, k, hk, h⟩
    refine ⟨32 * k, by omega, ?_⟩
    rwa [Nat.mul_div_cancel_left k (by decide)]

/-- Settles O20: the input is read bit by bit, and a bit is missing with its word. -/
theorem inputIsTheFirstBitsOfIbuf : Obligations.InputIsTheFirstBitsOfIbuf := fun s =>
  ⟨s.input_eq_some_iff, s.input_eq_none_iff⟩

/-! ### The checks and the update of each command -/

/-- The checks 2 to 5 of 30_encoding.md R97 that a command makes, in order. -/
def State.checks (s : State) : Instr → List Check
  | .hamEncBlk => [s.capacityCheck, s.blockCheck 4]
  | .hamDecBlk => [s.capacityCheck, s.blockCheck 7]
  | .hamEncSeq => [s.capacityCheck, s.multipleCheck 4 .lengthError]
  | .hamDecSeq => [s.capacityCheck, s.multipleCheck 7 .lengthError]
  | .hamCntClr => []
  | .convEnc => [s.capacityCheck]
  | .vitDec => [s.capacityCheck, s.multipleCheck 2 .invalidLength]
  | .bscCfg => [s.probabilityCheck s.param0]
  | .bscTx => [s.capacityCheck, s.bscConfigured]
  | .geCfg =>
    [s.probabilityCheck s.param0, s.probabilityCheck s.param1, s.probabilityCheck s.param2, s.probabilityCheck s.param3]
  | .geTx => [s.capacityCheck, s.geConfigured]

/-- The updates a command makes before it completes without error, on the input `b` if it reads one (30_encoding.md R99). -/
def State.updated (s : State) (b : Bits) : Instr → State
  | .hamEncBlk => s.setOutput (henc b) []
  | .hamDecBlk =>
    (s.setOutput (hdec b).1 [correctionFlag (hdec b).2]).countCorrections (correctionFlag (hdec b).2).toNat
  | .hamEncSeq => s.setOutput (hencSeq b) []
  | .hamDecSeq => (s.setOutput (hdecSeqData b) (hdecSeqFlags b)).countCorrections (countSet (hdecSeqFlags b))
  | .hamCntClr => s.setHamCnt 0#32
  | .convEnc => s.setOutput (convEncode 0#2 b) []
  | .vitDec => s.setOutput (viterbi s.cfg b) []
  | .bscCfg => s.setBsc s.param0
  | .bscTx =>
    (s.afterDraws s.len).setOutput (flipFlagged b (bscFlags s.bscBer (s.draws s.len)))
      (bscFlags s.bscBer (s.draws s.len))
  | .geCfg => s.setGe s.param0 s.param1 s.param2 s.param3
  | .geTx =>
    ((s.afterDraws (2 * s.len)).setOutput (flipFlagged b (s.geRun s.geState (s.draws (2 * s.len))).1)
      (s.geRun s.geState (s.draws (2 * s.len))).1).setGeState (s.geRun s.geState (s.draws (2 * s.len))).2

/-- A command that reads input makes its checks, then reads it, then makes its updates (30_encoding.md R93, R97). -/
theorem exec_of_readsInput {i : Instr} (hi : ReadsInput i) (s : State) :
    exec i s = s.command (s.checks i) fun s => s.withInput fun b => s.updated b i := by
  cases i with
  | hamCntClr | bscCfg | geCfg => simp [ReadsInput] at hi
  | _ => rfl

/-- The other three make their checks and their updates, which depend on no input. -/
theorem exec_of_not_readsInput {i : Instr} (hi : ¬ ReadsInput i) (s : State) (b : Bits) :
    exec i s = s.command (s.checks i) fun s => (s.updated b i).succeed := by
  cases i with
  | hamCntClr | bscCfg | geCfg => rfl
  | _ => simp [ReadsInput] at hi

theorem State.command_of_error {s : State} {cs : List Check} {e : ErrCode} (h : firstError cs = some e)
    (f : State → Result) : s.command cs f = .next (endedWith s e) := by
  rw [State.command, h]
  rfl

/-- A failing check ends a command with its error, whatever the command would do. -/
theorem exec_of_error {i : Instr} {s : State} {e : ErrCode} (h : firstError (s.checks i) = some e) :
    exec i s = .next (endedWith s e) := by
  by_cases hi : ReadsInput i
  · rw [exec_of_readsInput hi, State.command_of_error h]
  · rw [exec_of_not_readsInput hi s [], State.command_of_error h]

/-- What a command can answer with a next state: the error of its first failing check with no update, or its updates. -/
theorem exec_next_cases {i : Instr} {s t : State} (h : exec i s = .next t) :
    (∃ e, firstError (s.checks i) = some e ∧ t = endedWith s e) ∨
      (firstError (s.checks i) = none ∧ ∃ b, t = endedWith (s.updated b i) .none) := by
  by_cases hi : ReadsInput i
  · rw [exec_of_readsInput hi, State.command_next_iff, State.withInput_next_iff] at h
    obtain hfail | ⟨hpass, b, -, rfl⟩ := h
    · exact .inl hfail
    · exact .inr ⟨hpass, b, rfl⟩
  · rw [exec_of_not_readsInput hi s [], State.command_next_iff, State.succeed_next_iff] at h
    obtain hfail | ⟨hpass, rfl⟩ := h
    · exact .inl hfail
    · exact .inr ⟨hpass, [], rfl⟩

/-- A command that ends with an error ends with that of its first failing check, and makes no update. -/
theorem exec_failed {i : Instr} {s t : State} (h : exec i s = .next t) (herr : t.err ≠ .none) :
    ∃ e, firstError (s.checks i) = some e ∧ t = endedWith s e := by
  obtain hfail | ⟨-, b, rfl⟩ := exec_next_cases h
  · exact hfail
  · exact absurd rfl herr

/-! ### Which check fails first -/

/-- Every command that reads input checks its capacity first. -/
theorem State.checks_of_readsInput (s : State) {i : Instr} (hi : ReadsInput i) :
    ∃ rest, s.checks i = s.capacityCheck :: rest := by
  cases i with
  | hamCntClr | bscCfg | geCfg => simp [ReadsInput] at hi
  | _ => exact ⟨_, rfl⟩

/-- No check looks at IBUF. -/
theorem State.checks_setMem (s : State) (m : Memory) (i : Instr) : (s.setMem m).checks i = s.checks i := by
  cases i <;> rfl

theorem State.checks_error_ne_none {s : State} {i : Instr} {e : ErrCode} (h : firstError (s.checks i) = some e) :
    e ≠ .none := by
  have named : ∀ c ∈ s.checks i, c.2 ≠ .none := by
    cases i <;> simp [State.checks]
  obtain ⟨c, hc, -, rfl⟩ := firstError_mem h
  exact named c hc

theorem firstError_second {c d : Check} (hc : c.1 = false) (hd : d.1 = true) : firstError [c, d] = some d.2 := by
  simp [hc, hd]

/-- Where all checks have one error, that is the error when any of them fails. -/
theorem firstError_of_uniform {cs : List Check} {e : ErrCode} (he : ∀ c ∈ cs, c.2 = e) (hf : ∃ c ∈ cs, c.1 = true) :
    firstError cs = some e := by
  cases h : firstError cs with
  | some e' =>
    obtain ⟨c, hc, -, rfl⟩ := firstError_mem h
    rw [he c hc]
  | none =>
    obtain ⟨c, hc, hfail⟩ := hf
    rw [(firstError_eq_none_iff cs).1 h c hc] at hfail
    cases hfail

theorem exec_of_over_capacity {i : Instr} {s : State} (hi : ReadsInput i) (h : s.cfg.ibufBits < s.len) :
    exec i s = .next (endedWith s .capacityExceeded) := by
  obtain ⟨rest, hrest⟩ := s.checks_of_readsInput hi
  refine exec_of_error ?_
  rw [hrest, firstError_cons, if_pos (s.capacityCheck_fails.2 h), State.capacityCheck_error]

/-- Settles O21: the checks of each command, read off their list. -/
theorem checksAreMadeInOrder : Obligations.ChecksAreMadeInOrder := by
  intro s
  refine ⟨fun w hw => completeWord_of_illegal hw s, fun i => exec_of_over_capacity, fun hle => ?_, fun h => ?_,
    fun h => ?_, fun i t h herr => ?_⟩
  · have second : ∀ {i d}, s.checks i = [s.capacityCheck, d] → d.1 = true → exec i s = .next (endedWith s d.2) :=
      fun hi hd => exec_of_error (hi ▸ firstError_second (s.capacityCheck_passes.2 hle) hd)
    exact ⟨fun h => second rfl (s.bscConfigured_fails.2 h), fun h => second rfl (s.geConfigured_fails.2 h),
      fun h => second rfl ((s.blockCheck_fails 4).2 h), fun h => second rfl ((s.blockCheck_fails 7).2 h),
      fun h => second rfl ((s.multipleCheck_fails 4 _).2 h), fun h => second rfl ((s.multipleCheck_fails 7 _).2 h),
      fun h => second rfl ((s.multipleCheck_fails 2 _).2 h)⟩
  · exact exec_of_error (firstError_of_uniform (by simp [State.checks]) (by simpa [State.checks] using h))
  · exact exec_of_error (firstError_of_uniform (by simp [State.checks]) (by simpa [State.checks] using h))
  · obtain ⟨e, he, -⟩ := exec_failed h herr
    obtain ⟨c, hc, hfails, -⟩ := firstError_mem he
    have failing : ∃ c ∈ s.checks i, c.1 = true := ⟨c, hc, hfails⟩
    cases i with
    | hamCntClr => simp [State.checks] at failing
    | _ => simpa [State.checks, ReadsInput, State.len_eq] using failing

/-- Settles O22: an error is that of an illegal word or of a failing check, and neither depends on IBUF. -/
theorem failedCommandChangesOnlyStatus : Obligations.FailedCommandChangesOnlyStatus := by
  intro w s t h herr
  cases hd : decode w with
  | error e =>
    simp only [completeWord, hd, State.raise_next_iff] at h ⊢
    subst h
    exact ⟨rfl, fun _ => rfl⟩
  | ok i =>
    simp only [completeWord, hd] at h ⊢
    obtain ⟨e, he, rfl⟩ := exec_failed h herr
    exact ⟨rfl, fun m => exec_of_error (s := s.setMem m) (by rwa [s.checks_setMem])⟩

/-! ### Stops (30_encoding.md R93, 60_exceptions.md R241) -/

/-- A command faults only with UninitializedInput, when it reads an input that is missing, after its capacity check. -/
theorem exec_fault {i : Instr} {s : State} {f : Fault} (h : exec i s = .fault f) :
    f = .uninitializedInput ∧ ReadsInput i ∧ s.len ≤ s.cfg.ibufBits ∧ s.input = none := by
  by_cases hi : ReadsInput i
  · rw [exec_of_readsInput hi, State.command_fault_iff, State.withInput_fault_iff] at h
    obtain ⟨hpass, hinput, rfl⟩ := h
    obtain ⟨rest, hrest⟩ := s.checks_of_readsInput hi
    have hcap := (firstError_eq_none_iff _).1 hpass s.capacityCheck (by simp [hrest])
    exact ⟨rfl, hi, s.capacityCheck_passes.1 hcap, hinput⟩
  · rw [exec_of_not_readsInput hi s [], State.command_fault_iff] at h
    obtain ⟨-, h⟩ := h
    cases h

theorem exec_ne_refused (i : Instr) (s : State) (r : Refusal) : exec i s ≠ .refused r := by
  intro h
  by_cases hi : ReadsInput i
  · rw [exec_of_readsInput hi, State.command_refused_iff] at h
    exact State.withInput_ne_refused _ _ _ h.2
  · rw [exec_of_not_readsInput hi s [], State.command_refused_iff] at h
    obtain ⟨-, h⟩ := h
    cases h

/-- A command whose input is missing faults, unless a check ends it first. -/
theorem exec_of_input_none {i : Instr} {s : State} (hi : ReadsInput i) (hinput : s.input = none) :
    exec i s = .fault .uninitializedInput ∨ ∃ e, e ≠ .none ∧ exec i s = .next (endedWith s e) := by
  cases hc : firstError (s.checks i) with
  | some e => exact .inr ⟨e, State.checks_error_ne_none hc, exec_of_error hc⟩
  | none =>
    rw [exec_of_readsInput hi, State.command_fault_iff, State.withInput_fault_iff]
    exact .inl ⟨hc, hinput, rfl⟩

/-- Settles O23: the input is missing exactly where a word it needs is unwritten. -/
theorem commandFaultsOnlyOnUnwrittenInput : Obligations.CommandFaultsOnlyOnUnwrittenInput := by
  intro i s
  refine ⟨fun f h => ?_, exec_ne_refused i s, fun k hi hpos hk hword =>
    exec_of_input_none hi (s.input_eq_none_iff.2 ⟨hpos, k, hk, hword⟩)⟩
  obtain ⟨hf, hi, hcap, hinput⟩ := exec_fault h
  obtain ⟨hpos, hword⟩ := s.input_eq_none_iff.1 hinput
  exact ⟨hf, hi, hpos, hcap, hword⟩

/-! ### Which commands write what (30_encoding.md R98, R99) -/

/-- What only the commands in `writers` update is as before where any other command completes, and where any completes with an
error. -/
theorem exec_keeps {Same : State → Prop} {writers : List Instr} {i : Instr} {s t : State} (h : exec i s = .next t)
    (hi : i ∉ writers ∨ t.err ≠ .none) (failed : ∀ e, Same (endedWith s e))
    (other : i ∉ writers → ∀ b, Same (endedWith (s.updated b i) .none)) : Same t := by
  obtain ⟨e, -, rfl⟩ | ⟨-, b, rfl⟩ := exec_next_cases h
  · exact failed e
  · exact other (hi.resolve_right fun herr => herr rfl) b

section Keeps

variable {i : Instr} {s t : State} (h : exec i s = .next t)
include h

theorem exec_keeps_bsc (hi : i ∉ [Instr.bscCfg] ∨ t.err ≠ .none) : SameBsc s t :=
  exec_keeps h hi (fun _ => ⟨rfl, rfl⟩) fun hi b => by
    cases i with
    | bscCfg => simp at hi
    | _ => exact ⟨rfl, rfl⟩

theorem exec_keeps_geParams (hi : i ∉ [Instr.geCfg] ∨ t.err ≠ .none) : SameGeParams s t :=
  exec_keeps h hi (fun _ => ⟨rfl, rfl, rfl, rfl, rfl⟩) fun hi b => by
    cases i with
    | geCfg => simp at hi
    | _ => exact ⟨rfl, rfl, rfl, rfl, rfl⟩

theorem exec_keeps_geState (hi : i ∉ [Instr.geCfg, .geTx] ∨ t.err ≠ .none) : t.geState = s.geState :=
  exec_keeps (Same := fun t => t.geState = s.geState) h hi (fun _ => rfl) fun hi b => by
    cases i with
    | geCfg | geTx => simp at hi
    | _ => rfl

theorem exec_keeps_hamCnt (hi : i ∉ [Instr.hamDecBlk, .hamDecSeq, .hamCntClr] ∨ t.err ≠ .none) : t.hamCnt = s.hamCnt :=
  exec_keeps (Same := fun t => t.hamCnt = s.hamCnt) h hi (fun _ => rfl) fun hi b => by
    cases i with
    | hamDecBlk | hamDecSeq | hamCntClr => simp at hi
    | _ => rfl

theorem exec_keeps_entropy (hi : i ∉ [Instr.bscTx, .geTx] ∨ t.err ≠ .none) : t.entropy = s.entropy :=
  exec_keeps (Same := fun t => t.entropy = s.entropy) h hi (fun _ => rfl) fun hi b => by
    cases i with
    | bscTx | geTx => simp at hi
    | _ => rfl

theorem exec_keeps_output_of_error (herr : t.err ≠ .none) : SameOutput s t := by
  obtain ⟨e, -, rfl⟩ := exec_failed h herr
  exact ⟨rfl, rfl⟩

end Keeps

/-- Settles O47: none of the four writes a channel, GE_STATE, HAM_CNT or the entropy stream. -/
theorem encodersAndViterbiFrame : Obligations.EncodersAndViterbiFrame := by
  intro i s t hi h
  have done := exec_completion h
  have other : ∀ i ∈ [Instr.hamEncBlk, .hamEncSeq, .convEnc, .vitDec], i ∉ [Instr.bscCfg] ∧ i ∉ [Instr.geCfg] ∧
      i ∉ [Instr.geCfg, .geTx] ∧ i ∉ [Instr.hamDecBlk, .hamDecSeq, .hamCntClr] ∧ i ∉ [Instr.bscTx, .geTx] := by decide
  obtain ⟨hbsc, hge, hstate, hcnt, hdraw⟩ := other i hi
  exact ⟨done.memory, done.hostRegs, exec_keeps_bsc h (.inl hbsc), exec_keeps_geParams h (.inl hge),
    exec_keeps_geState h (.inl hstate), exec_keeps_hamCnt h (.inl hcnt), done.environment,
    exec_keeps_entropy h (.inl hdraw), done.completed, exec_keeps_output_of_error h⟩

/-- Settles O48: as the encoders, but for HAM_CNT. -/
theorem hammingDecodersFrame : Obligations.HammingDecodersFrame := by
  intro i s t hi h
  have done := exec_completion h
  have other : ∀ i ∈ [Instr.hamDecBlk, .hamDecSeq], i ∉ [Instr.bscCfg] ∧ i ∉ [Instr.geCfg] ∧
      i ∉ [Instr.geCfg, .geTx] ∧ i ∉ [Instr.bscTx, .geTx] := by decide
  obtain ⟨hbsc, hge, hstate, hdraw⟩ := other i hi
  exact ⟨done.memory, done.hostRegs, exec_keeps_bsc h (.inl hbsc), exec_keeps_geParams h (.inl hge),
    exec_keeps_geState h (.inl hstate), done.environment, exec_keeps_entropy h (.inl hdraw), done.completed,
    fun herr => ⟨exec_keeps_output_of_error h herr, exec_keeps_hamCnt h (.inr herr)⟩⟩

/-- Settles O49: each of the three writes its own registers. -/
theorem systemCommandsFrame : Obligations.SystemCommandsFrame := by
  intro i s t hi h
  have done := exec_completion h
  have other : ∀ i ∈ [Instr.hamCntClr, .bscCfg, .geCfg], (i = .hamCntClr ∨ i = .bscCfg ∨ i = .geCfg) ∧
      i ∉ [Instr.bscTx, .geTx] ∧ (i ≠ .hamCntClr → i ∉ [Instr.hamDecBlk, .hamDecSeq, .hamCntClr]) ∧
      (i ≠ .bscCfg → i ∉ [Instr.bscCfg]) ∧ (i ≠ .geCfg → i ∉ [Instr.geCfg]) ∧
      (i ≠ .geCfg → i ∉ [Instr.geCfg, .geTx]) := by decide
  obtain ⟨hsystem, hdraw, hcnt, hbsc, hge, hstate⟩ := other i hi
  exact ⟨done.memory, done.hostRegs, exec_sameOutput h hsystem, done.environment, exec_keeps_entropy h (.inl hdraw),
    done.completed, fun hne => exec_keeps_hamCnt h (.inl (hcnt hne)), fun hne => exec_keeps_bsc h (hne.imp_left hbsc),
    fun hne => ⟨exec_keeps_geParams h (hne.imp_left hge), exec_keeps_geState h (hne.imp_left hstate)⟩⟩

/-- Settles O50: a transmit writes neither channel's registers nor HAM_CNT, and BSC_TX not GE_STATE. -/
theorem transmitsFrame : Obligations.TransmitsFrame := by
  intro i s t hi h
  have done := exec_completion h
  have other : ∀ i ∈ [Instr.bscTx, .geTx], i ∉ [Instr.bscCfg] ∧ i ∉ [Instr.geCfg] ∧
      i ∉ [Instr.hamDecBlk, .hamDecSeq, .hamCntClr] ∧ (i = .bscTx → i ∉ [Instr.geCfg, .geTx]) := by decide
  obtain ⟨hbsc, hge, hcnt, hstate⟩ := other i hi
  exact ⟨done.memory, done.hostRegs, exec_keeps_bsc h (.inl hbsc), exec_keeps_geParams h (.inl hge),
    exec_keeps_hamCnt h (.inl hcnt), done.environment, done.completed,
    fun htx => exec_keeps_geState h (.inl (hstate htx)),
    fun herr => ⟨exec_keeps_output_of_error h herr, exec_keeps_geState h (.inr herr), exec_keeps_entropy h (.inr herr)⟩⟩

end Sys2Proof.Machine

/-! PROOFS. The Hamming commands (spec 41_hamming.md): the (7,4) code and its decoder, sequences by blocks, what each command
completes with, and the correction of one error per block. -/

namespace Sys2Proof.Machine

/-! ### The code and its decoder on one block (41_hamming.md R121 to R123) -/

theorem syndrome_henc {d : Bits} (h : d.length = 4) : syndrome (henc d) = 0 := by
  obtain ⟨d0, d1, d2, d3, rfl⟩ := List.length_eq_four.1 h
  simp [henc, syndrome]

theorem dataBits_henc {d : Bits} (h : d.length = 4) : dataBits (henc d) = d := by
  obtain ⟨d0, d1, d2, d3, rfl⟩ := List.length_eq_four.1 h
  rfl

/-- The parity checks are numbered so that inverting position `j` adds `j` to the syndrome; `j = 0` inverts nothing. -/
theorem syndrome_flipPosition {c : Bits} (h : c.length = 7) {j : Nat} (hj : j ≤ 7) :
    syndrome (flipPosition j c) = syndrome c ^^^ j := by
  match c, h with
  | [c1, c2, c3, c4, c5, c6, c7], _ =>
    revert c1 c2 c3 c4 c5 c6 c7 j
    decide

theorem flipPosition_flipPosition_self (j : Nat) (c : Bits) : flipPosition j (flipPosition j c) = c := by
  induction j, c using flipPosition.induct with
  | case1 c => simp [flipPosition]
  | case2 n hn => simp [flipPosition]
  | case3 b rest => simp [flipPosition]
  | case4 n b rest ih => simp [flipPosition, ih]

/-- The decoder corrects any one error and its syndrome tells the position (41_hamming.md R123); `j = 0` is no error. -/
theorem hdec_flipPosition_henc {d : Bits} (h : d.length = 4) {j : Nat} (hj : j ≤ 7) :
    hdec (flipPosition j (henc d)) = (d, j) := by
  rw [hdec, syndrome_flipPosition (henc_length h) hj, syndrome_henc h, Nat.zero_xor, flipPosition_flipPosition_self,
    dataBits_henc h]

theorem syndrome_two_errors {d : Bits} (h : d.length = 4) {i j : Nat} (hi : i ≤ 7) (hj : j ≤ 7) :
    syndrome (flipPosition i (flipPosition j (henc d))) = i ^^^ j := by
  have hlen : (flipPosition j (henc d)).length = 7 := by rw [flipPosition_length, henc_length h]
  rw [syndrome_flipPosition hlen hi, syndrome_flipPosition (henc_length h) hj, syndrome_henc h, Nat.zero_xor, Nat.xor_comm]

/-- After two errors the decoder inverts a third position, and the data is wrong: at most two of the positions `i`, `j` and
`i XOR j` are parity positions, and the third is inverted in the data. -/
theorem dataBits_two_errors {d : Bits} (h : d.length = 4) :
    ∀ i ∈ [1, 2, 3, 4, 5, 6, 7], ∀ j ∈ [1, 2, 3, 4, 5, 6, 7], i ≠ j →
      dataBits (flipPosition (i ^^^ j) (flipPosition i (flipPosition j (henc d)))) ≠ d := by
  obtain ⟨d0, d1, d2, d3, rfl⟩ := List.length_eq_four.1 h
  revert d0 d1 d2 d3
  decide

/-- Settles O30, from the syndrome of a codeword with errors. -/
theorem hammingDecoderProperties : Obligations.HammingDecoderProperties := by
  have le_seven : ∀ j ∈ [1, 2, 3, 4, 5, 6, 7], j ≤ 7 := by decide
  refine ⟨fun d0 d1 d2 d3 => ⟨hdec_flipPosition_henc (j := 0) rfl (by decide), fun j hj =>
    ⟨hdec_flipPosition_henc rfl (le_seven j hj), fun i hi hne => ?_⟩⟩, rfl, rfl⟩
  have hsyn := syndrome_two_errors (d := [d0, d1, d2, d3]) rfl (le_seven i hi) (le_seven j hj)
  refine ⟨hsyn, fun h => hne (Nat.xor_eq_zero_iff.1 h), ?_⟩
  rw [hdec, hsyn]
  exact dataBits_two_errors rfl i hi j hj hne

/-- The data the decoder takes from a block with position `n` inverted. -/
theorem dataBits_flipPosition (c1 c2 c3 c4 c5 c6 c7 : Bit) {n : Nat} (hn : n ≤ 7) :
    dataBits (flipPosition n [c1, c2, c3, c4, c5, c6, c7]) =
      [c3 ^^ decide (n = 3), c5 ^^ decide (n = 5), c6 ^^ decide (n = 6), c7 ^^ decide (n = 7)] := by
  interval_cases n <;> simp [flipPosition, dataBits]

theorem syndrome_le (c : Bits) : syndrome c ≤ 7 := by
  unfold syndrome
  split
  · rename_i c1 c2 d0 c4 d1 d2 d3
    have h1 := (c1 ^^ ((d0 ^^ d1) ^^ d3)).toNat_le
    have h2 := (c2 ^^ ((d0 ^^ d2) ^^ d3)).toNat_le
    have h4 := (c4 ^^ ((d1 ^^ d2) ^^ d3)).toNat_le
    dsimp only
    omega
  · exact Nat.zero_le 7

theorem correctionFlag_eq_decide (n : Nat) : correctionFlag n = decide (n ≠ 0) := by
  by_cases h : n = 0 <;> simp [correctionFlag, h]

theorem countSet_eq_count (f : Bits) : countSet f = f.count true :=
  List.countP_congr fun x _ => by simp

theorem countSet_cons (x : Bit) (f : Bits) : countSet (x :: f) = x.toNat + countSet f := by
  cases x <;> simp [countSet, Nat.add_comm]

/-! ### Sequences by blocks (41_hamming.md R126, R127) -/

/-- Induction over a sequence block by block, the remainder being shorter than a block. -/
theorem block_induction {n : Nat} (hn : 0 < n) {P : Bits → Prop} (short : ∀ b, b.length < n → P b)
    (append : ∀ c rest, c.length = n → P rest → P (c ++ rest)) (b : Bits) : P b := by
  by_cases h : b.length < n
  · exact short b h
  · rw [← List.take_append_drop n b]
    exact append _ _ (List.length_take_of_le (Nat.not_lt.1 h)) (block_induction hn short append (b.drop n))
termination_by b.length
decreasing_by rw [List.length_drop]; omega

/-- Where a function turns each `m`-bit block in front into an `n`-bit one, block `g` of its result is that of block `g`. -/
theorem block_of_blockwise {F G : Bits → Bits} {m n : Nat} (hm : 0 < m) (hlen : ∀ c, c.length = m → (G c).length = n)
    (happ : ∀ c rest, c.length = m → F (c ++ rest) = G c ++ F rest) (b : Bits) :
    ∀ g < b.length / m, block (F b) n g = G (block b m g) := by
  induction b using block_induction hm with
  | short b hb =>
    intro g hg
    rw [Nat.div_eq_of_lt hb] at hg
    exact absurd hg (Nat.not_lt_zero g)
  | append c rest hc ih =>
    intro g hg
    rw [List.length_append, hc, Nat.add_div_left _ hm] at hg
    rw [happ c rest hc]
    cases g with
    | zero => rw [block_append_zero _ _ (hlen c hc), block_append_zero _ _ hc]
    | succ g => rw [block_append_succ _ _ g (hlen c hc), block_append_succ _ _ g hc, ih g (by omega)]

theorem block_length_of_lt {b : Bits} {n g : Nat} (hg : g < b.length / n) : (block b n g).length = n := by
  have hend : n * (g + 1) ≤ b.length := (Nat.mul_le_mul_left n hg).trans (Nat.mul_div_le _ n)
  rw [Nat.mul_succ] at hend
  rw [block, List.length_take, List.length_drop]
  omega

theorem getElem?_of_block_one {f : Bits} {g : Nat} {x : Bit} (h : block f 1 g = [x]) : f[g]? = some x := by
  rw [block, Nat.one_mul] at h
  have h0 := congrArg (·[0]?) h
  simpa [List.getElem?_take] using h0

theorem hencSeq_append {d : Bits} (h : d.length = 4) (rest : Bits) : hencSeq (d ++ rest) = henc d ++ hencSeq rest := by
  obtain ⟨d0, d1, d2, d3, rfl⟩ := List.length_eq_four.1 h
  rfl

theorem hdecSeqData_append {c : Bits} (h : c.length = 7) (rest : Bits) :
    hdecSeqData (c ++ rest) = (hdec c).1 ++ hdecSeqData rest := by
  match c, h with
  | [_, _, _, _, _, _, _], _ => rfl

theorem hdecSeqFlags_append {c : Bits} (h : c.length = 7) (rest : Bits) :
    hdecSeqFlags (c ++ rest) = correctionFlag (hdec c).2 :: hdecSeqFlags rest := by
  match c, h with
  | [_, _, _, _, _, _, _], _ => rfl

theorem block_hencSeq (b : Bits) : ∀ g < b.length / 4, block (hencSeq b) 7 g = henc (block b 4 g) :=
  block_of_blockwise (by decide) (fun _ => henc_length) (fun _ rest h => hencSeq_append h rest) b

theorem block_hdecSeqData (c : Bits) : ∀ g < c.length / 7, block (hdecSeqData c) 4 g = (hdec (block c 7 g)).1 :=
  block_of_blockwise (G := fun c => (hdec c).1) (by decide) (fun _ => hdec_length)
    (fun _ rest h => hdecSeqData_append h rest) c

theorem hdecSeqFlags_getElem? (c : Bits) {g : Nat} (hg : g < c.length / 7) :
    (hdecSeqFlags c)[g]? = some (correctionFlag (hdec (block c 7 g)).2) :=
  getElem?_of_block_one (block_of_blockwise (G := fun c => [correctionFlag (hdec c).2]) (by decide) (fun _ _ => rfl)
    (fun _ rest h => hdecSeqFlags_append h rest) c g hg)

/-! ### The completions (41_hamming.md R120, R124, R126 to R128) -/

section TwoChecks

variable {i : Instr} {s : State} {d : Check} (hi : ReadsInput i) (hchecks : s.checks i = [s.capacityCheck, d])
  (hcap : s.len ≤ s.cfg.ibufBits)
include hchecks hcap

theorem exec_of_second_check_fails (hd : d.1 = true) : exec i s = .next (endedWith s d.2) :=
  exec_of_error (hchecks ▸ firstError_second (s.capacityCheck_passes.2 hcap) hd)

include hi in
theorem exec_of_both_checks_pass (hd : d.1 = false) {b : Bits} (hb : s.input = some b) :
    exec i s = .next (endedWith (s.updated b i) .none) := by
  have hpass : firstError (s.checks i) = none := by simp [hchecks, hcap, hd]
  rw [exec_of_readsInput hi, State.command_next_iff, State.withInput_next_iff]
  exact .inr ⟨hpass, b, hb, rfl⟩

end TwoChecks

/-- Settles O25: the input is one block, so both checks pass and `henc` of it is the output. -/
theorem hamEncBlkEncodesABlock : Obligations.HamEncBlkEncodesABlock := by
  have hi : ReadsInput .hamEncBlk := ⟨nofun, nofun, nofun⟩
  refine ⟨rfl, fun s => ⟨exec_of_over_capacity hi, fun hcap h4 =>
    exec_of_second_check_fails rfl hcap ((s.blockCheck_fails 4).2 h4), fun d0 d1 d2 d3 h4 hcap hin => ?_⟩⟩
  have hlen : s.len = 4 := congrArg BitVec.toNat h4
  exact exec_of_both_checks_pass hi rfl (hlen ▸ hcap) ((s.blockCheck_passes 4).2 hlen) hin

/-- Settles O26: the syndrome of the block is `n`. -/
theorem hamDecBlkDecodesABlock : Obligations.HamDecBlkDecodesABlock := by
  have hi : ReadsInput .hamDecBlk := ⟨nofun, nofun, nofun⟩
  refine ⟨rfl, fun s => ⟨exec_of_over_capacity hi, fun hcap h7 =>
    exec_of_second_check_fails rfl hcap ((s.blockCheck_fails 7).2 h7),
    fun c1 c2 c3 c4 c5 c6 c7 n h7 hcap hin hn => ?_⟩⟩
  have hlen : s.len = 7 := congrArg BitVec.toNat h7
  have hsyn : syndrome [c1, c2, c3, c4, c5, c6, c7] = n := hn.symm
  have hdata := dataBits_flipPosition c1 c2 c3 c4 c5 c6 c7 (hsyn ▸ syndrome_le _)
  have hcount : s.hamCnt + BitVec.ofNat 32 (decide (n ≠ 0)).toNat = if n = 0 then s.hamCnt else s.hamCnt + 1#32 := by
    by_cases h0 : n = 0 <;> simp [h0]
  rw [exec_of_both_checks_pass hi rfl (hlen ▸ hcap) ((s.blockCheck_passes 7).2 hlen) hin, ← hdata, ← hcount]
  simp only [State.updated, hdec, hsyn, correctionFlag_eq_decide]
  rfl

/-- Settles O27: the output is `hencSeq` of the input, block by block. -/
theorem hamEncSeqEncodesEveryGroup : Obligations.HamEncSeqEncodesEveryGroup := by
  have hi : ReadsInput .hamEncSeq := ⟨nofun, nofun, nofun⟩
  refine ⟨rfl, fun s => ⟨exec_of_over_capacity hi, fun hcap h4 =>
    exec_of_second_check_fails rfl hcap ((s.multipleCheck_fails 4 _).2 h4), fun b hcap h4 hin => ?_⟩⟩
  have hlen : b.length = s.inLen.toNat := s.length_of_input hin
  rw [← hlen]
  exact ⟨hencSeq b, exec_of_both_checks_pass hi rfl hcap ((s.multipleCheck_passes 4 _).2 h4) hin, hencSeq_length b,
    block_hencSeq b⟩

/-- HAM_DEC_SEQ on whole blocks: their data and flags, and HAM_CNT up by the flags set (41_hamming.md R127). -/
theorem exec_hamDecSeq_of_input {s : State} {c : Bits} (hcap : s.inLen.toNat ≤ s.cfg.ibufBits)
    (h7 : s.inLen.toNat % 7 = 0) (hin : s.input = some c) :
    exec .hamDecSeq s = .next { endedWith s .none with
      out := hdecSeqData c
      flags := hdecSeqFlags c
      hamCnt := s.hamCnt + BitVec.ofNat 32 (countSet (hdecSeqFlags c)) } :=
  exec_of_both_checks_pass (i := .hamDecSeq) ⟨nofun, nofun, nofun⟩ rfl hcap ((s.multipleCheck_passes 7 _).2 h7) hin

/-- Settles O28: the outputs are `hdecSeqData` and `hdecSeqFlags` of the input, block by block. -/
theorem hamDecSeqDecodesEveryBlock : Obligations.HamDecSeqDecodesEveryBlock := by
  refine ⟨rfl, fun s => ⟨exec_of_over_capacity ⟨nofun, nofun, nofun⟩, fun hcap h7 =>
    exec_of_second_check_fails rfl hcap ((s.multipleCheck_fails 7 _).2 h7), fun c hcap h7 hin => ?_⟩⟩
  have hlen : c.length = s.inLen.toNat := s.length_of_input hin
  have hexec := exec_hamDecSeq_of_input hcap h7 hin
  rw [countSet_eq_count] at hexec
  rw [← hlen]
  refine ⟨_, _, hexec, hdecSeqData_length c, hdecSeqFlags_length c, fun g hg => ⟨block_hdecSeqData c g hg, ?_⟩⟩
  rw [hdecSeqFlags_getElem? c hg, correctionFlag_eq_decide]

/-- Settles O29: the command has no check and one update. -/
theorem hamCntClrClearsTheCounter : Obligations.HamCntClrClearsTheCounter :=
  ⟨rfl, fun s => (exec_hamCntClr_next s _).2 rfl⟩

/-! ### One error per block (41_hamming.md R123) -/

theorem eq_of_distance_eq_zero {a b : Bits} (hlen : b.length = a.length) (h : distance a b = 0) : b = a := by
  induction a generalizing b with
  | nil => exact List.eq_nil_of_length_eq_zero hlen
  | cons x a ih =>
    obtain ⟨y, b, rfl⟩ := List.exists_cons_of_length_eq_add_one hlen
    obtain ⟨hxy, hab⟩ := Nat.add_eq_zero_iff.1 h
    rw [ih (Nat.succ.inj hlen) hab]
    cases x <;> cases y <;> simp_all

/-- A sequence at distance at most 1 from `a` is `a` with one position inverted, or `a` itself, which is position 0. -/
theorem exists_flipPosition_of_distance_le_one {a b : Bits} (hlen : b.length = a.length) (h : distance a b ≤ 1) :
    ∃ j ≤ a.length, b = flipPosition j a ∧ distance a b = (decide (j ≠ 0)).toNat := by
  induction a generalizing b with
  | nil => exact ⟨0, Nat.zero_le _, List.eq_nil_of_length_eq_zero hlen, rfl⟩
  | cons x a ih =>
    obtain ⟨y, b, rfl⟩ := List.exists_cons_of_length_eq_add_one hlen
    have hab : b.length = a.length := Nat.succ.inj hlen
    by_cases hxy : y = x
    · subst hxy
      have hd : distance (y :: a) (y :: b) = distance a b := by simp [distance]
      rw [hd] at h ⊢
      obtain ⟨j, hj, rfl, hdist⟩ := ih hab h
      cases j with
      | zero => exact ⟨0, Nat.zero_le _, by simp [flipPosition], hdist⟩
      | succ j => exact ⟨j + 2, Nat.succ_le_succ hj, rfl, hdist⟩
    · obtain rfl : y = !x := by cases x <;> cases y <;> simp_all
      have hd : distance (x :: a) ((!x) :: b) = 1 + distance a b := by simp [distance]
      obtain rfl := eq_of_distance_eq_zero hab (by omega)
      exact ⟨1, Nat.succ_le_succ (Nat.zero_le _), rfl, by simp [hd]⟩

/-- A received block with at most one error decodes to the data sent, and its flag tells the error. -/
theorem hdec_of_distance_le_one {d c : Bits} (hd : d.length = 4) (hc : c.length = 7) (h : distance (henc d) c ≤ 1) :
    (hdec c).1 = d ∧ (correctionFlag (hdec c).2).toNat = distance (henc d) c := by
  have h7 : (henc d).length = 7 := henc_length hd
  obtain ⟨j, hj, rfl, hdist⟩ := exists_flipPosition_of_distance_le_one (hc.trans h7.symm) h
  rw [hdec_flipPosition_henc hd (h7 ▸ hj), correctionFlag_eq_decide]
  exact ⟨rfl, hdist.symm⟩

/-- Received codewords with at most one error in each block decode to the sequence sent, and as many flags are set as bits
were inverted. -/
theorem hdecSeq_of_distance_le_one (b : Bits) : ∀ rx : Bits, b.length % 4 = 0 → rx.length = (hencSeq b).length →
    (∀ g, distance (block (hencSeq b) 7 g) (block rx 7 g) ≤ 1) →
    hdecSeqData rx = b ∧ countSet (hdecSeqFlags rx) = distance (hencSeq b) rx := by
  induction b using block_induction (n := 4) (by decide) with
  | short b hb =>
    intro rx h4 hlen _
    obtain rfl : b = [] := List.eq_nil_of_length_eq_zero (by omega)
    obtain rfl : rx = [] := List.eq_nil_of_length_eq_zero hlen
    exact ⟨rfl, rfl⟩
  | append d rest hd ih =>
    intro rx h4 hlen hnear
    have h7 : (henc d).length = 7 := henc_length hd
    rw [hencSeq_append hd] at hlen hnear ⊢
    rw [List.length_append, h7] at hlen
    rw [List.length_append, hd] at h4
    obtain ⟨c, rx', rfl, hc⟩ : ∃ c rx', rx = c ++ rx' ∧ c.length = 7 :=
      ⟨rx.take 7, rx.drop 7, (List.take_append_drop 7 rx).symm, List.length_take_of_le (by omega)⟩
    rw [List.length_append, hc] at hlen
    have first : distance (henc d) c ≤ 1 := by
      simpa only [block_append_zero _ _ h7, block_append_zero _ _ hc] using hnear 0
    have later : ∀ g, distance (block (hencSeq rest) 7 g) (block rx' 7 g) ≤ 1 := fun g => by
      simpa only [block_append_succ _ _ g h7, block_append_succ _ _ g hc] using hnear (g + 1)
    obtain ⟨hdata, hflag⟩ := hdec_of_distance_le_one hd hc first
    obtain ⟨hrest, hcount⟩ := ih rx' (by omega) (by omega) later
    rw [hdecSeqData_append hc, hdecSeqFlags_append hc, hdata, hrest, distance_append _ _ _ _ (h7.trans hc.symm), ← hflag,
      ← hcount, countSet_cons]
    exact ⟨rfl, rfl⟩

/-- HAM_ENC_SEQ that ends without error had whole groups and encoded them. -/
theorem exec_hamEncSeq_succeeded {s t : State} {b : Bits} (h : exec .hamEncSeq s = .next t) (hin : s.input = some b)
    (herr : t.err = .none) : b.length % 4 = 0 ∧ t.out = hencSeq b := by
  obtain ⟨e, he, rfl⟩ | ⟨hpass, b', hin', rfl⟩ := (exec_hamEncSeq_next s t).1 h
  · exact absurd herr (s.checks_error_ne_none (i := .hamEncSeq) he)
  · cases hin.symm.trans hin'
    rw [s.length_of_input hin]
    exact ⟨(s.multipleCheck_passes 4 .lengthError).1 ((firstError_eq_none_iff _).1 hpass _ (by simp)), rfl⟩

/-- Settles O31: the data and the counter by induction over the blocks, the flags block by block. -/
theorem hammingCorrectsOneErrorPerBlock : Obligations.HammingCorrectsOneErrorPerBlock := by
  intro s t s' b rx hin hexec herr hrx hcap hlen hnear
  obtain ⟨h4, hout⟩ := exec_hamEncSeq_succeeded hexec hin herr
  rw [hout] at hlen hnear ⊢
  obtain ⟨hdata, hcount⟩ := hdecSeq_of_distance_le_one b rx h4 hlen hnear
  have hblocks : rx.length / 7 = b.length / 4 := by rw [hlen, hencSeq_length]; omega
  have h7 : s'.inLen.toNat % 7 = 0 := by
    rw [← s'.len_eq, ← s'.length_of_input hrx, hlen, hencSeq_length]; omega
  refine ⟨_, exec_hamDecSeq_of_input hcap h7 hrx, rfl, hdata, by rw [hcount],
    (hdecSeqFlags_length rx).trans hblocks, fun g hg => ?_⟩
  have near := hnear g
  rw [block_hencSeq b g hg] at near ⊢
  obtain ⟨-, hflag⟩ := hdec_of_distance_le_one (block_length_of_lt hg) (block_length_of_lt (hblocks ▸ hg)) near
  rw [hdecSeqFlags_getElem? rx (hblocks ▸ hg), ← hflag]
  simp

end Sys2Proof.Machine

/-! PROOFS. The convolutional code (spec 42_convolutional.md): the encoder as two sliding parities, the rows of
path_metric_ram, the traceback as a path through the trellis, and the decoder as a nearest-codeword search. -/

namespace Sys2Proof.Machine

/-! ### The encoder (42_convolutional.md R150, R151, R153) -/

/-- Settles O32, row by row. -/
theorem trellisTransitionTable : Obligations.TrellisTransitionTable := by
  intro r hr
  fin_cases hr <;> decide

/-- The bits the encoder taps from state `p` on: those its register holds, oldest first, then the input. -/
def encoderWindow (p : TrellisState) (b : Bits) : Bits := p.reg1 :: p.reg0 :: b

theorem encoderWindow_nextState (p : TrellisState) (x : Bit) (b : Bits) :
    encoderWindow p (x :: b) = p.reg1 :: encoderWindow (nextState p x) b := by
  simp [encoderWindow]

/-- Output pair `k` is the parity of the bits of the window that the two generators tap (R151: 111₂ and 101₂). -/
theorem convEncode_getElem? (p : TrellisState) (b : Bits) {k : Nat} (hk : k < b.length) :
    (convEncode p b)[2 * k]? = some ((encoderWindow p b).getD (k + 2) false ^^ (encoderWindow p b).getD (k + 1) false ^^
        (encoderWindow p b).getD k false) ∧
      (convEncode p b)[2 * k + 1]? = some ((encoderWindow p b).getD (k + 2) false ^^ (encoderWindow p b).getD k false) := by
  induction b generalizing p k with
  | nil => exact absurd hk (Nat.not_lt_zero k)
  | cons x b ih =>
    cases k with
    | zero => simp [convEncode, encoderWindow, out0, out1]
    | succ k =>
      have later := ih (nextState p x) (Nat.lt_of_succ_lt_succ hk)
      simpa [convEncode, encoderWindow_nextState, Nat.mul_succ] using later

/-- CONV_ENC within capacity completes with the encoding of its input. -/
theorem exec_convEnc_of_input {s : State} {b : Bits} (hcap : s.inLen.toNat ≤ s.cfg.ibufBits) (hin : s.input = some b) :
    exec .convEnc s = .next { endedWith s .none with out := convEncode 0#2 b, flags := [] } :=
  have hpass : firstError [s.capacityCheck] = none := by simpa [s.len_eq] using hcap
  (exec_convEnc_next s _).2 (.inr ⟨hpass, b, hin, rfl⟩)

/-- Settles O33: the window from state 0 is the input after two zeros. -/
theorem convEncIsTheGeneratorConvolution : Obligations.ConvEncIsTheGeneratorConvolution := by
  refine ⟨rfl, fun s => ⟨exec_of_over_capacity ⟨nofun, nofun, nofun⟩, fun b hcap hin => ?_⟩⟩
  have hlen : b.length = s.inLen.toNat := s.length_of_input hin
  refine ⟨_, exec_convEnc_of_input hcap hin, by rw [convEncode_length, hlen], fun k hk => ?_⟩
  exact convEncode_getElem? 0#2 b (hlen ▸ hk)

/-! ### The rows of path_metric_ram (42_convolutional.md R152, R154 to R157) -/

theorem inputBit_eq_decide (s : TrellisState) : inputBit s = decide (s.toNat / 2 = 1) := by
  revert s
  decide

theorem loPred_toNat (s : TrellisState) : (loPred s).toNat = 2 * (s.toNat % 2) := by
  revert s
  decide

theorem hiPred_toNat (s : TrellisState) : (hiPred s).toNat = 2 * (s.toNat % 2) + 1 := by
  revert s
  decide

theorem initialRow_metric (p : Params) (s : TrellisState) :
    ((initialRow p).entry s).metric = if s = 0#2 then 0 else p.inf := by
  rw [initialRow, PmRow.entry_tabulate]

/-- The table begins with its first row. -/
theorem pathMetricRows_eq_cons (p : Params) (first : PmRow) (rx : Bits) :
    pathMetricRows p first rx = first :: (pathMetricRows p first rx).tail := by
  match rx with
  | [] | [_] | _ :: _ :: _ => rfl

/-- Each later row is the next row of the one before it and the received pair of its time. -/
theorem pathMetricRows_succ {p : Params} {rx : Bits} {first row' : PmRow} {t : Nat}
    (h : (pathMetricRows p first rx)[t + 1]? = some row') :
    ∃ row r0 r1, (pathMetricRows p first rx)[t]? = some row ∧ rx[2 * t]? = some r0 ∧ rx[2 * t + 1]? = some r1 ∧
      row' = nextRow p row r0 r1 := by
  induction first, rx using pathMetricRows.induct p generalizing t with
  | case1 first r0 r1 rest ih =>
    rw [pathMetricRows, List.getElem?_cons_succ] at h
    cases t with
    | zero =>
      rw [pathMetricRows_eq_cons] at h
      exact ⟨first, r0, r1, by rw [pathMetricRows]; rfl, rfl, rfl, (Option.some.inj h).symm⟩
    | succ t => simpa [pathMetricRows, Nat.mul_succ] using ih h
  | case2 => simp [pathMetricRows] at h

/-- Settles O34: the stated predecessors, input bit and candidates are those of `addCompareSelect`. -/
theorem addCompareSelectRule : Obligations.AddCompareSelectRule := by
  intro p rx t row row' r0 r1 s lo hi b cand hrow hrow' hr0 hr1 hlo hhi hb hcand
  obtain ⟨row₁, x0, x1, hrow₁, hx0, hx1, rfl⟩ := pathMetricRows_succ hrow'
  cases hrow.symm.trans hrow₁
  cases hr0.symm.trans hx0
  cases hr1.symm.trans hx1
  obtain rfl : lo = loPred s := BitVec.eq_of_toNat_eq (hlo.trans (loPred_toNat s).symm)
  obtain rfl : hi = hiPred s := BitVec.eq_of_toNat_eq (hhi.trans (hiPred_toNat s).symm)
  obtain rfl : b = inputBit s := hb.trans (inputBit_eq_decide s).symm
  have hcand : cand = candidate p row r0 r1 s := funext hcand
  rw [nextRow_entry, addCompareSelect, hcand]

theorem addCompareSelect_metric (p : Params) (row : PmRow) (r0 r1 : Bit) (s : TrellisState) :
    (addCompareSelect p row r0 r1 s).metric =
      min (candidate p row r0 r1 s (loPred s)) (candidate p row r0 r1 s (hiPred s)) := by
  unfold addCompareSelect
  split
  · exact (Nat.min_eq_right (Nat.le_of_lt ‹_›)).symm
  · exact (Nat.min_eq_left (Nat.not_lt.1 ‹_›)).symm

/-- The stored predecessor leads to its state, and the stored metric is its candidate. -/
theorem addCompareSelect_pred (p : Params) (row : PmRow) (r0 r1 : Bit) (s : TrellisState) :
    nextState (addCompareSelect p row r0 r1 s).pred (inputBit s) = s ∧
      (addCompareSelect p row r0 r1 s).metric = candidate p row r0 r1 s (addCompareSelect p row r0 r1 s).pred := by
  unfold addCompareSelect
  split
  · exact ⟨(nextState_eq_iff _ _ _).2 ⟨rfl, .inr rfl⟩, rfl⟩
  · exact ⟨(nextState_eq_iff _ _ _).2 ⟨rfl, .inl rfl⟩, rfl⟩

/-- The states a path of `t` input bits from state 0 can end in (42_convolutional.md R157). -/
def ReachableAt (t : Nat) (s : TrellisState) : Prop := s = 0#2 ∨ (s = 2#2 ∧ 1 ≤ t) ∨ 2 ≤ t

theorem reachableAt_succ_iff (t : Nat) (s : TrellisState) :
    ReachableAt (t + 1) s ↔ ReachableAt t (loPred s) ∨ ReachableAt t (hiPred s) := by
  rcases s.eq_cases with rfl | rfl | rfl | rfl <;> simp [ReachableAt, loPred, hiPred] <;> omega

/-- At time `t` a metric is INF or at most 2t, and it is finite at the reachable states (42_convolutional.md R157). -/
def PmRow.InRange (p : Params) (t : Nat) (row : PmRow) : Prop :=
  ∀ s, ((row.entry s).metric = p.inf ∨ (row.entry s).metric ≤ 2 * t) ∧ ((row.entry s).metric ≠ p.inf ↔ ReachableAt t s)

theorem initialRow_inRange {p : Params} (h : 0 < p.inf) : (initialRow p).InRange p 0 := by
  intro s
  rw [initialRow_metric]
  by_cases hs : s = 0#2
  · simp [hs, ReachableAt, h.ne]
  · simp [hs, ReachableAt]

/-- A branch adds at most 2 to a metric and does not make it INF. -/
theorem candidate_range {p : Params} {row : PmRow} {t : Nat} (hrow : row.InRange p t) (ht : 2 * (t + 1) < p.inf)
    (r0 r1 : Bit) (s q : TrellisState) :
    (candidate p row r0 r1 s q = p.inf ∨ candidate p row r0 r1 s q ≤ 2 * (t + 1)) ∧
      (candidate p row r0 r1 s q ≠ p.inf ↔ ReachableAt t q) := by
  obtain ⟨hle, hreach⟩ := hrow q
  have hbranch := branchMetric_le r0 r1 (out0 q (inputBit s)) (out1 q (inputBit s))
  rw [← hreach, candidate]
  split <;> omega

theorem nextRow_inRange {p : Params} {row : PmRow} {t : Nat} (hrow : row.InRange p t) (ht : 2 * (t + 1) < p.inf)
    (r0 r1 : Bit) : (nextRow p row r0 r1).InRange p (t + 1) := by
  intro s
  obtain ⟨hlo, hloReach⟩ := candidate_range hrow ht r0 r1 s (loPred s)
  obtain ⟨hhi, hhiReach⟩ := candidate_range hrow ht r0 r1 s (hiPred s)
  rw [nextRow_entry, addCompareSelect_metric, reachableAt_succ_iff, ← hloReach, ← hhiReach]
  omega

theorem two_mul_lt_inf {p : Params} {t : Nat} (ht : t ≤ p.tMax) : 2 * t < p.inf :=
  (Nat.mul_le_mul_left 2 ht).trans_lt p.two_tMax_lt_inf

theorem pathMetricRows_inRange {p : Params} {rx : Bits} {t : Nat} {row : PmRow} (ht : t ≤ p.tMax)
    (h : (pathMetricRows p (initialRow p) rx)[t]? = some row) : row.InRange p t := by
  induction t generalizing row with
  | zero =>
    rw [pathMetricRows_eq_cons] at h
    cases h
    exact initialRow_inRange (two_mul_lt_inf ht)
  | succ t ih =>
    obtain ⟨row₀, r0, r1, hrow₀, -, -, rfl⟩ := pathMetricRows_succ h
    exact nextRow_inRange (ih (Nat.le_of_succ_le ht) hrow₀) (two_mul_lt_inf ht) r0 r1

/-- Settles O35: every row is in range. -/
theorem pathMetricsStayBelowInf : Obligations.PathMetricsStayBelowInf := by
  intro p rx t row hlen hrow
  obtain ⟨hlt, -⟩ := List.getElem?_eq_some_iff.1 hrow
  rw [pathMetricRows_length] at hlt
  have ht : t ≤ p.tMax := (Nat.le_of_lt_succ hlt).trans hlen
  exact ⟨Nat.mul_le_mul_left 2 ht, p.two_tMax_lt_inf, pathMetricRows_inRange ht hrow⟩

/-! ### The final state and the traceback (42_convolutional.md R158 to R160) -/

/-- The minimum over the states of a row (42_convolutional.md R158). -/
def PmRow.minMetric (row : PmRow) : Nat := min (min row.e0.metric row.e1.metric) (min row.e2.metric row.e3.metric)

theorem PmRow.minMetric_le (row : PmRow) (s : TrellisState) : row.minMetric ≤ (row.entry s).metric := by
  rcases s.eq_cases with rfl | rfl | rfl | rfl <;> simp [PmRow.minMetric, PmRow.entry]

/-- The selection takes the first state that has the minimum. -/
theorem bestState_first (row : PmRow) :
    (row.entry (bestState row)).metric = row.minMetric ∧
      ∀ s : TrellisState, s.toNat < (bestState row).toNat → (row.entry s).metric ≠ row.minMetric := by
  have select : bestState row = if row.e0.metric = row.minMetric then 0#2 else if row.e1.metric = row.minMetric then 1#2
      else if row.e2.metric = row.minMetric then 2#2 else 3#2 := rfl
  rw [select]
  refine ⟨?_, fun s hs hmin => ?_⟩
  · split_ifs with h0 h1 h2
    · exact h0
    · exact h1
    · exact h2
    · change row.e3.metric = row.minMetric
      unfold PmRow.minMetric at *
      omega
  · rcases s.eq_cases with rfl | rfl | rfl | rfl
    · rw [if_pos (show row.e0.metric = row.minMetric from hmin)] at hs
      exact absurd hs (by decide)
    · rw [if_pos (show row.e1.metric = row.minMetric from hmin)] at hs
      split_ifs at hs <;> exact absurd hs (by decide)
    · rw [if_pos (show row.e2.metric = row.minMetric from hmin)] at hs
      split_ifs at hs <;> exact absurd hs (by decide)
    · exact absurd hs (Nat.not_lt.2 (Nat.le_of_lt_succ (BitVec.isLt _)))

/-- Settles O36: the selected metric is the minimum, and no smaller state has it. -/
theorem finalStateIsTheSmallestMinimum : Obligations.FinalStateIsTheSmallestMinimum := by
  intro row s
  obtain ⟨hmin, hfirst⟩ := bestState_first row
  rw [hmin]
  exact ⟨row.minMetric_le s, fun hs => lt_of_le_of_ne (row.minMetric_le s) (hfirst s hs).symm⟩

/-- The last row of path_metric_ram, on which the final state is selected. -/
def finalRow (p : Params) (row : PmRow) : Bits → PmRow
  | r0 :: r1 :: rest => finalRow p (nextRow p row r0 r1) rest
  | _ => row

theorem pathMetricRows_getLast? (p : Params) (first : PmRow) (rx : Bits) :
    (pathMetricRows p first rx).getLast? = some (finalRow p first rx) := by
  induction first, rx using pathMetricRows.induct p with
  | case1 first r0 r1 rest ih =>
    rw [pathMetricRows, pathMetricRows_eq_cons, List.getLast?_cons_cons, ← pathMetricRows_eq_cons, ih, finalRow]
  | case2 => simp [pathMetricRows, finalRow]

theorem pathMetricRows_finalRow (p : Params) (first : PmRow) (rx : Bits) :
    (pathMetricRows p first rx)[rx.length / 2]? = some (finalRow p first rx) := by
  rw [← pathMetricRows_getLast?, List.getLast?_eq_getElem?, pathMetricRows_length, Nat.add_sub_cancel]

/-- The rows that traceback walks, newest first: all but row 0. -/
def tracedRows (p : Params) (first : PmRow) (rx : Bits) : List PmRow := (pathMetricRows p first rx).tail.reverse

/-- The decoder is the traceback from the selected state of the last row; with no row to walk it gives no bit. -/
theorem viterbi_eq_traceback (p : Params) (rx : Bits) :
    viterbi p rx = traceback (tracedRows p (initialRow p) rx) (bestState (finalRow p (initialRow p) rx)) [] := by
  have hlast := pathMetricRows_getLast? p (initialRow p) rx
  have hlen : (pathMetricRows p (initialRow p) rx).tail.length = rx.length / 2 := by simp
  unfold viterbi tracedRows
  split
  · rw [List.eq_nil_of_length_eq_zero (hlen.trans ‹_›)]
    rfl
  · rw [List.getLast?_eq_head?_reverse] at hlast
    split
    · rename_i hrows
      simp [hrows] at hlast
    · rename_i last earlier hrows
      rw [hrows] at hlast
      cases hlast
      rw [← hrows, List.dropLast_reverse]

/-- VIT_DEC of an even number of bits within capacity completes with the decoder's output (42_convolutional.md R160). -/
theorem exec_vitDec_of_input {s : State} {rx : Bits} (hcap : s.inLen.toNat ≤ s.cfg.ibufBits)
    (heven : s.inLen.toNat % 2 = 0) (hin : s.input = some rx) :
    exec .vitDec s = .next { endedWith s .none with out := viterbi s.cfg rx, flags := [] } :=
  exec_of_both_checks_pass (i := .vitDec) ⟨nofun, nofun, nofun⟩ rfl hcap ((s.multipleCheck_passes 2 _).2 heven) hin

/-- Settles O37: the states are those of the traceback, and TB_DEPTH is no part of the input. -/
theorem vitDecCompletes : Obligations.VitDecCompletes := by
  intro s rx hcap heven hin
  have hlen : rx.length = s.inLen.toNat := s.length_of_input hin
  have hrows : (tracedRows s.cfg (initialRow s.cfg) rx).length = s.inLen.toNat / 2 := by simp [tracedRows, hlen]
  refine ⟨viterbi s.cfg rx, by rw [viterbi_length, hlen], fun depth => ?_, ?_⟩
  · have same : ({ s with tbDepth := depth } : State).input = s.input := State.input_congr rfl rfl
    exact exec_vitDec_of_input hcap heven (same.trans hin)
  obtain ⟨st, hbest, hwalk⟩ :=
    traceback_states (tracedRows s.cfg (initialRow s.cfg) rx) (bestState (finalRow s.cfg (initialRow s.cfg) rx)) []
  rw [hrows] at hbest hwalk
  refine ⟨st, ⟨_, hlen ▸ pathMetricRows_finalRow s.cfg (initialRow s.cfg) rx, hbest⟩, fun t h1 ht => ?_⟩
  obtain ⟨⟨row, hrow, hpred⟩, hbit⟩ := hwalk t h1 ht
  rw [tracedRows, List.reverse_reverse, List.getElem?_tail, Nat.sub_add_cancel h1] at hrow
  rw [viterbi_eq_traceback, hbit, inputBit_eq_decide]
  exact ⟨⟨row, hrow, hpred⟩, rfl⟩

/-! ### The decoder as a nearest-codeword search (42_convolutional.md R155, R158, R159) -/

/-- One more input bit adds the branch metric of its transition. -/
theorem distance_convEncode_cons (q : TrellisState) (x : Bit) (b : Bits) (r0 r1 : Bit) (rest : Bits) :
    distance (convEncode q (x :: b)) (r0 :: r1 :: rest) =
      branchMetric r0 r1 (out0 q x) (out1 q x) + distance (convEncode (nextState q x) b) rest := by
  simp only [convEncode, distance, branchMetric, Bool.xor_comm r0, Bool.xor_comm r1, Nat.add_assoc]

theorem distance_le_length (a b : Bits) : distance a b ≤ b.length := by
  induction a, b using distance.induct with
  | case1 x xs y ys ih =>
    have := (x ^^ y).toNat_le
    simp only [distance, List.length_cons]
    omega
  | case2 => simp [distance]

/-- A transition's branch is a candidate of the state it leads to: it costs at least that state's metric. -/
theorem nextRow_metric_le (p : Params) (row : PmRow) (r0 r1 : Bit) (q : TrellisState) (x : Bit) :
    ((nextRow p row r0 r1).entry (nextState q x)).metric ≤
      (row.entry q).metric + branchMetric r0 r1 (out0 q x) (out1 q x) := by
  obtain ⟨hx, hq⟩ := (nextState_eq_iff q (nextState q x) x).1 rfl
  have hcand : candidate p row r0 r1 (nextState q x) q ≤
      (row.entry q).metric + branchMetric r0 r1 (out0 q x) (out1 q x) := by
    rw [candidate, ← hx]
    split
    · exact Nat.le_add_right_of_le (Nat.le_of_eq (Eq.symm ‹_›))
    · exact Nat.le_refl _
  rw [nextRow_entry, addCompareSelect_metric]
  rcases hq with hq | hq
  · exact (Nat.min_le_left _ _).trans (hq ▸ hcand)
  · exact (Nat.min_le_right _ _).trans (hq ▸ hcand)

/-- No input is nearer than the metric: a path from state `q` costs at least the last metric of the state it ends in. -/
theorem finalRow_metric_le (p : Params) (row : PmRow) (rx : Bits) (q : TrellisState) (b : Bits)
    (hlen : 2 * b.length = rx.length) :
    ((finalRow p row rx).entry (b.foldl nextState q)).metric ≤ (row.entry q).metric + distance (convEncode q b) rx := by
  induction b generalizing row rx q with
  | nil =>
    obtain rfl : rx = [] := List.eq_nil_of_length_eq_zero hlen.symm
    simp [finalRow]
  | cons x b ih =>
    match rx, hlen with
    | r0 :: r1 :: rest, hlen =>
      have hrest := ih (nextRow p row r0 r1) rest (nextState q x) (by simp only [List.length_cons] at hlen; omega)
      have hfirst := nextRow_metric_le p row r0 r1 q x
      rw [finalRow, List.foldl_cons, distance_convEncode_cons]
      omega

/-- Where the walk of the traceback along the stored predecessors ends. -/
def tracebackStart (rows : List PmRow) (s : TrellisState) : TrellisState := rows.foldl (fun s row => (row.entry s).pred) s

/-- The oldest row of a traceback gives its first bit. -/
theorem traceback_concat (rows : List PmRow) (row : PmRow) (s : TrellisState) (acc : Bits) :
    traceback (rows ++ [row]) s acc = inputBit (tracebackStart rows s) :: traceback rows s acc := by
  induction rows generalizing s acc with
  | nil => rfl
  | cons r rows ih => exact ih _ _

theorem tracebackStart_concat (rows : List PmRow) (row : PmRow) (s : TrellisState) :
    tracebackStart (rows ++ [row]) s = (row.entry (tracebackStart rows s)).pred :=
  List.foldl_concat ..

theorem tracedRows_cons (p : Params) (row : PmRow) (r0 r1 : Bit) (rest : Bits) :
    tracedRows p row (r0 :: r1 :: rest) = tracedRows p (nextRow p row r0 r1) rest ++ [nextRow p row r0 r1] := by
  rw [tracedRows, pathMetricRows, List.tail_cons, pathMetricRows_eq_cons, List.reverse_cons, tracedRows]

/-- A finite metric is that of the stored predecessor, which is finite too, and the branch from there. -/
theorem nextRow_metric_of_finite {p : Params} {row : PmRow} {r0 r1 : Bit} {s q : TrellisState}
    (hq : ((nextRow p row r0 r1).entry s).pred = q) (hs : ((nextRow p row r0 r1).entry s).metric ≠ p.inf) :
    nextState q (inputBit s) = s ∧ (row.entry q).metric ≠ p.inf ∧
      ((nextRow p row r0 r1).entry s).metric =
        (row.entry q).metric + branchMetric r0 r1 (out0 q (inputBit s)) (out1 q (inputBit s)) := by
  rw [nextRow_entry] at *
  obtain ⟨hnext, hmetric⟩ := addCompareSelect_pred p row r0 r1 s
  rw [hq] at hnext hmetric
  rw [hmetric, candidate] at hs
  rw [hmetric, candidate]
  by_cases hinf : (row.entry q).metric = p.inf
  · exact absurd (if_pos hinf) hs
  · exact ⟨hnext, hinf, if_neg hinf⟩

/-- The traceback attains the metric: the input it recovers, encoded from the state where its walk ends, is as far from the
received sequence as the last metric says. -/
theorem traceback_attains_metric {p : Params} {row : PmRow} {rx : Bits} {s : TrellisState}
    (hs : ((finalRow p row rx).entry s).metric ≠ p.inf) :
    (row.entry (tracebackStart (tracedRows p row rx) s)).metric ≠ p.inf ∧
      ((finalRow p row rx).entry s).metric = (row.entry (tracebackStart (tracedRows p row rx) s)).metric +
        distance (convEncode (tracebackStart (tracedRows p row rx) s) (traceback (tracedRows p row rx) s [])) rx := by
  induction row, rx using pathMetricRows.induct p with
  | case1 row r0 r1 rest ih =>
    obtain ⟨hfinite, hrest⟩ := ih hs
    obtain ⟨hnext, hq, hfirst⟩ := nextRow_metric_of_finite rfl hfinite
    rw [tracedRows_cons, traceback_concat, tracebackStart_concat, distance_convEncode_cons, hnext, ← Nat.add_assoc,
      ← hfirst]
    exact ⟨hq, hrest⟩
  | case2 rx row hrx =>
    have hnone : tracedRows p row rx = [] := by simp [tracedRows, pathMetricRows]
    have hlast : finalRow p row rx = row := by simp [finalRow]
    rw [hlast] at hs
    rw [hnone, hlast]
    exact ⟨hs, rfl⟩

theorem initialRow_finite {p : Params} {s : TrellisState} (h : ((initialRow p).entry s).metric ≠ p.inf) : s = 0#2 := by
  by_contra hs
  exact h (by rw [initialRow_metric, if_neg hs])

/-- The selected metric is at most the distance of any input's encoding from state 0. -/
theorem bestState_metric_le_distance (p : Params) {rx b : Bits} (hb : 2 * b.length = rx.length) :
    ((finalRow p (initialRow p) rx).entry (bestState (finalRow p (initialRow p) rx))).metric ≤
      distance (convEncode 0#2 b) rx := by
  have hpath := finalRow_metric_le p (initialRow p) rx 0#2 b hb
  rw [initialRow_metric, if_pos rfl, Nat.zero_add] at hpath
  exact (finalStateIsTheSmallestMinimum _ _).1.trans hpath

/-- The selected metric is finite: some input encodes to a sequence, and its distance is at most 2*T_MAX. -/
theorem bestState_metric_ne_inf {p : Params} {rx : Bits} (heven : rx.length % 2 = 0) (hmax : rx.length / 2 ≤ p.tMax) :
    ((finalRow p (initialRow p) rx).entry (bestState (finalRow p (initialRow p) rx))).metric ≠ p.inf := by
  have hzeros := bestState_metric_le_distance p (rx := rx) (b := List.replicate (rx.length / 2) false)
    (by rw [List.length_replicate]; omega)
  have hdistance := distance_le_length (convEncode 0#2 (List.replicate (rx.length / 2) false)) rx
  have hinf := two_mul_lt_inf hmax
  omega

/-- The decoder's output is nearest: its encoding is as far from the received sequence as the selected metric, and no other
input's is nearer (42_convolutional.md R159, maximum likelihood). -/
theorem viterbi_nearest {p : Params} {rx : Bits} (heven : rx.length % 2 = 0) (hmax : rx.length / 2 ≤ p.tMax) {b : Bits}
    (hb : 2 * b.length = rx.length) :
    distance (convEncode 0#2 (viterbi p rx)) rx ≤ distance (convEncode 0#2 b) rx := by
  obtain ⟨hstart, hmetric⟩ := traceback_attains_metric (bestState_metric_ne_inf heven hmax)
  rw [initialRow_finite hstart, initialRow_metric, if_pos rfl, Nat.zero_add, ← viterbi_eq_traceback] at hmetric
  exact hmetric ▸ bestState_metric_le_distance p hb

/-- VIT_DEC that ends without error had an even number of bits within capacity and decoded them. -/
theorem exec_vitDec_succeeded {s t : State} {rx : Bits} (h : exec .vitDec s = .next t) (hin : s.input = some rx)
    (herr : t.err = .none) : rx.length ≤ s.cfg.ibufBits ∧ rx.length % 2 = 0 ∧ t.out = viterbi s.cfg rx := by
  obtain ⟨e, he, rfl⟩ | ⟨hpass, rx', hin', rfl⟩ := (exec_vitDec_next s t).1 h
  · exact absurd herr (s.checks_error_ne_none (i := .vitDec) he)
  · cases hin.symm.trans hin'
    refine ⟨input_length_le hpass hin, ?_, rfl⟩
    rw [s.length_of_input hin]
    exact (s.multipleCheck_passes 2 .invalidLength).1 ((firstError_eq_none_iff _).1 hpass _ (by simp))

/-- Settles O38: within capacity a sequence has at most T_MAX pairs, so `viterbi_nearest` applies. -/
theorem viterbiDecodesToANearestCodeword : Obligations.ViterbiDecodesToANearestCodeword := by
  intro s t rx hin hexec herr
  obtain ⟨hcap, heven, hout⟩ := exec_vitDec_succeeded hexec hin herr
  rw [hout, viterbi_length]
  exact ⟨by omega, fun b hb => viterbi_nearest heven (Nat.div_le_div_right hcap) hb⟩

/-! ### The noiseless round trip (42_convolutional.md R161) -/

/-- The two branches out of a state differ, so the encoding tells the input bit by bit. -/
theorem convEncode_injective (p : TrellisState) : Function.Injective (convEncode p) := by
  intro a b h
  induction a generalizing p b with
  | nil =>
    cases b with
    | nil => rfl
    | cons y b => cases h
  | cons x a ih =>
    cases b with
    | nil => cases h
    | cons y b =>
      obtain ⟨hfirst, hrest⟩ := List.cons.inj h
      obtain ⟨-, hrest⟩ := List.cons.inj hrest
      obtain rfl : x = y := by simpa [out0] using hfirst
      rw [ih _ hrest]

theorem viterbi_convEncode {p : Params} {b : Bits} (hmax : b.length ≤ p.tMax) : viterbi p (convEncode 0#2 b) = b := by
  have hlen : (convEncode 0#2 b).length = 2 * b.length := convEncode_length _ b
  have hnearest := viterbi_nearest (p := p) (rx := convEncode 0#2 b) (by omega) (by omega) (b := b) hlen.symm
  rw [distance_self, Nat.le_zero] at hnearest
  refine convEncode_injective 0#2 (eq_of_distance_eq_zero ?_ hnearest).symm
  rw [convEncode_length, convEncode_length, viterbi_length, hlen]
  omega

theorem exec_convEnc_succeeded {s t : State} {b : Bits} (h : exec .convEnc s = .next t) (hin : s.input = some b)
    (herr : t.err = .none) : t.out = convEncode 0#2 b := by
  obtain ⟨e, he, rfl⟩ | ⟨-, b', hin', rfl⟩ := (exec_convEnc_next s t).1 h
  · exact absurd herr (s.checks_error_ne_none (i := .convEnc) he)
  · cases hin.symm.trans hin'
    rfl

/-- Settles O39: the input itself encodes to the received sequence, and no other input does. -/
theorem viterbiInvertsTheEncoder : Obligations.ViterbiInvertsTheEncoder := by
  intro s t s' b hin hexec herr hrx hmax
  rw [exec_convEnc_succeeded hexec hin herr] at hrx
  have hlen : 2 * b.length = s'.inLen.toNat := (convEncode_length 0#2 b).symm.trans (s'.length_of_input hrx)
  have hcap : s'.inLen.toNat ≤ s'.cfg.ibufBits := by
    unfold Params.tMax at hmax
    omega
  exact ⟨_, exec_vitDec_of_input hcap (by omega) hrx, rfl, viterbi_convEncode hmax⟩

end Sys2Proof.Machine

/-! PROOFS. The binary symmetric channel (spec 43_bsc.md): its configuration, one decision per bit, and the channel at p = 0
and at p = 1. -/

namespace Sys2Proof.Machine

/-! ### Configuration (43_bsc.md R190) -/

/-- Settles O40: the command's one check is that of its probability. -/
theorem bscCfgConstructsTheChannel : Obligations.BscCfgConstructsTheChannel := by
  refine ⟨rfl, fun s => ⟨fun hlegal => (exec_bscCfg_next s _).2 (.inr ⟨?passes, rfl⟩), fun hbad => exec_of_error ?fails⟩⟩
  case passes => simpa using hlegal
  case fails => simpa [State.checks] using hbad

/-! ### One decision per bit (43_bsc.md R191, R192) -/

/-- Flag `k` is the decision on draw `k`. -/
theorem bscFlags_draws_getElem? (s : State) (ber : Word) {n k : Nat} (hk : k < n) :
    (bscFlags ber (s.draws n))[k]? = some (decide (drawAt s k < ber.toNat)) := by
  rw [bscFlags, List.getElem?_map, State.draws_getElem?, if_pos hk]
  rfl

theorem State.afterDraws_entropy_eq (s : State) (n : Nat) :
    (s.afterDraws n).entropy = { queue := s.entropy.queue.drop n, taken := s.entropy.taken + n } :=
  FreePort.nextMany_snd ..

/-- BSC_TX on a configured channel, within capacity, completes with the flags its draws decide and the bits they invert, and
moves the stream by one draw per bit. -/
theorem exec_bscTx_of_input {s : State} {b : Bits} (hcap : s.inLen.toNat ≤ s.cfg.ibufBits) (hvalid : s.bscValid = true)
    (hin : s.input = some b) :
    exec .bscTx s = .next { endedWith s .none with
      out := flipFlagged b (bscFlags s.bscBer (s.draws s.inLen.toNat))
      flags := bscFlags s.bscBer (s.draws s.inLen.toNat)
      entropy := { queue := s.entropy.queue.drop s.inLen.toNat, taken := s.entropy.taken + s.inLen.toNat } } := by
  rw [← s.afterDraws_entropy_eq]
  exact exec_of_both_checks_pass (i := .bscTx) ⟨nofun, nofun, nofun⟩ rfl hcap (s.bscConfigured_passes.2 hvalid) hin

/-- Settles O41: output and flags are as long as the input, and each is read bit by bit. -/
theorem bscTxFlipsWhereTheDrawHits : Obligations.BscTxFlipsWhereTheDrawHits := by
  intro s b hcap hvalid hin
  have hb : b.length = s.inLen.toNat := s.length_of_input hin
  have hf : (bscFlags s.bscBer (s.draws s.inLen.toNat)).length = s.inLen.toNat := by simp
  refine ⟨_, _, exec_bscTx_of_input hcap hvalid hin, by simp [hb], hf, fun k hk => ?_⟩
  have hflag := bscFlags_draws_getElem? s s.bscBer hk
  refine ⟨hflag, ?_⟩
  rw [flipFlagged_getElem? b _ (hk.trans_eq hb.symm) (hk.trans_eq hf.symm)]
  simp only [List.getD_eq_getElem?_getD, hflag, Option.getD_some]

/-! ### The channel at p = 0 and at p = 1 (43_bsc.md R193) -/

/-- BSC_TX that ends without error has sent its input through the flags its draws decide. -/
theorem exec_bscTx_succeeded {s t : State} {b : Bits} (h : exec .bscTx s = .next t) (hin : s.input = some b)
    (herr : t.err = .none) :
    t.flags = bscFlags s.bscBer (s.draws s.len) ∧ t.out = flipFlagged b t.flags := by
  obtain ⟨e, he, rfl⟩ | ⟨-, b', hin', rfl⟩ := (exec_bscTx_next s t).1 h
  · exact absurd herr (s.checks_error_ne_none (i := .bscTx) he)
  · cases hin.symm.trans hin'
    exact ⟨rfl, rfl⟩

/-- Where every draw decides alike, the flags are all that decision. -/
theorem bscFlags_eq_replicate {ber : Word} {us : List Nat} {x : Bool} (h : ∀ u ∈ us, hit u ber = x) :
    bscFlags ber us = List.replicate us.length x := by
  rw [bscFlags, List.map_congr_left h, List.map_const']

/-- No draw is below 0. -/
theorem hit_zero (u : Nat) : hit u 0#32 = false := by
  simp [hit]

/-- Every draw is below 2^PROB_W. -/
theorem hit_of_mem_draws {s : State} {n : Nat} {ber : Word} (hber : ber.toNat = 2 ^ s.cfg.probW) :
    ∀ u ∈ s.draws n, hit u ber = true := fun u hu =>
  decide_eq_true (hber ▸ s.draws_lt n u hu)

theorem flipFlagged_replicate (b : Bits) (x : Bool) :
    flipFlagged b (List.replicate b.length x) = b.map (· ^^ x) := by
  rw [flipFlagged, ← List.map_const', List.zipWith_map_right, List.zipWith_self]

/-- Settles O42: at p = 0 no draw hits and at p = 1 every draw does; the last clause is that of any flags. -/
theorem bscAtZeroAndOne : Obligations.BscAtZeroAndOne := by
  intro s t b hin hexec herr
  obtain ⟨hflags, hout⟩ := exec_bscTx_succeeded hexec hin herr
  have hdraws : (s.draws s.len).length = b.length := by rw [s.draws_length, s.length_of_input hin]
  have hlen : t.flags.length = b.length := by rw [hflags, bscFlags_length, hdraws]
  have uniform : ∀ x, (∀ u ∈ s.draws s.len, hit u s.bscBer = x) →
      t.out = b.map (· ^^ x) ∧ t.flags = List.replicate b.length x := fun x hx => by
    rw [bscFlags_eq_replicate hx, hdraws] at hflags
    rw [hout, hflags, flipFlagged_replicate]
    exact ⟨rfl, rfl⟩
  refine ⟨fun hzero => ?zero, fun hone => ?one, ?length, hlen, fun k hk => ?bit⟩
  case zero => simpa using uniform false fun u _ => hzero ▸ hit_zero u
  case one => simpa using uniform true (hit_of_mem_draws hone)
  case length => rw [hout, flipFlagged_length, hlen, Nat.min_self]
  case bit => rw [hout, flipFlagged_getElem? b _ hk (hk.trans_eq hlen.symm)]

end Sys2Proof.Machine

/-! PROOFS. The Gilbert-Elliott channel (spec 44_gilbert_elliott.md): its configuration, a run of GE_TX through the channel
states, and its determinism and split. -/

namespace Sys2Proof.Machine

/-! ### Configuration (44_gilbert_elliott.md R210) -/

/-- Settles O43: the command's four checks are those of its probabilities, all with one error. -/
theorem geCfgConstructsTheChannel : Obligations.GeCfgConstructsTheChannel := by
  refine ⟨rfl, fun s => ⟨fun hlegal => (exec_geCfg_next s _).2 (.inr ⟨(firstError_eq_none_iff _).2 ?pass, rfl⟩),
    fun hbad => exec_of_error (firstError_of_uniform ?oneError ?fails)⟩⟩
  case pass => simpa using hlegal
  case oneError => simp [State.checks]
  case fails => simpa [State.checks] using hbad

/-! ### The draws of a run (60_exceptions.md R245, R246) -/

/-- A draw depends on the state only through the port and the width of a probability. -/
theorem drawAt_congr {s t : State} (hport : t.entropy = s.entropy) (hwidth : t.cfg.probW = s.cfg.probW) (k : Nat) :
    drawAt t k = drawAt s k := by
  rw [drawAt, drawAt, portWord, portWord, hport, hwidth]

theorem State.draws_congr {s t : State} (h : ∀ k, drawAt t k = drawAt s k) (n : Nat) : t.draws n = s.draws n := by
  rw [State.draws_eq_map, State.draws_eq_map, funext h]

theorem State.afterDraws_entropy_congr {s t : State} (h : t.entropy = s.entropy) (n : Nat) :
    (t.afterDraws n).entropy = (s.afterDraws n).entropy := by
  rw [State.afterDraws_entropy, State.afterDraws_entropy, h]

/-- `m + n` draws are `m` draws and then `n` from where these left the stream. -/
theorem State.draws_add (s : State) (m n : Nat) : s.draws (m + n) = s.draws m ++ (s.afterDraws m).draws n := by
  rw [State.draws, FreePort.nextMany_add, List.map_append]
  rfl

theorem State.afterDraws_entropy_add (s : State) (m n : Nat) :
    (s.afterDraws (m + n)).entropy = ((s.afterDraws m).afterDraws n).entropy := by
  simp only [State.afterDraws_entropy_eq, List.drop_drop, Nat.add_assoc]

/-- The two draws of bit `n` are the last of the first `n + 1` pairs. -/
theorem State.draws_two_mul_succ (s : State) (n : Nat) :
    s.draws (2 * (n + 1)) = s.draws (2 * n) ++ [drawAt s (2 * n), drawAt s (2 * n + 1)] := by
  rw [Nat.mul_succ, State.draws_add, State.draws_eq_map (s.afterDraws _)]
  simp [List.range_succ, drawAt_afterDraws]

/-! ### A run through the channel states (44_gilbert_elliott.md R211 to R213) -/

theorem State.geError_eq_decide (s : State) (c : Channel) (u : Nat) :
    s.geError c u = decide (u < if c = .good then s.geEg.toNat else s.geEb.toNat) := by
  cases c <;> rfl

/-- A run over the draws of `n` bits: where `g` are the channel states, bit `k`'s flag is the error decision on draw `2k + 1` in
the post-transition state `g (k + 1)`, and the run ends in `g n`. -/
theorem State.geRun_draws {s : State} {g : Nat → Channel}
    (hg : ∀ k, g (k + 1) = s.geTransition (g k) (drawAt s (2 * k))) (n : Nat) :
    s.geRun (g 0) (s.draws (2 * n)) =
      ((List.range n).map fun k => s.geError (g (k + 1)) (drawAt s (2 * k + 1)), g n) := by
  induction n with
  | zero => rfl
  | succ n ih =>
    have heven : (s.draws (2 * n)).length % 2 = 0 := by simp
    rw [State.draws_two_mul_succ, State.geRun_append _ _ _ _ heven, ih, List.range_succ, List.map_append]
    simp only [State.geRun, ← hg, List.map_singleton]

/-- GE_TX on a configured channel, within capacity, completes with the flags of its run and the bits they invert, writes the
run's last channel state back and moves the stream by two draws per bit. -/
theorem exec_geTx_of_input {s : State} {b : Bits} (hcap : s.inLen.toNat ≤ s.cfg.ibufBits) (hvalid : s.geValid = true)
    (hin : s.input = some b) {f : Bits} {c : Channel} (hrun : s.geRun s.geState (s.draws (2 * s.inLen.toNat)) = (f, c)) :
    exec .geTx s = .next { endedWith s .none with
      out := flipFlagged b f
      flags := f
      geState := c
      entropy :=
        { queue := s.entropy.queue.drop (2 * s.inLen.toNat), taken := s.entropy.taken + 2 * s.inLen.toNat } } := by
  obtain ⟨rfl, rfl⟩ := Prod.mk.inj hrun
  rw [← s.afterDraws_entropy_eq]
  exact exec_of_both_checks_pass (i := .geTx) ⟨nofun, nofun, nofun⟩ rfl hcap (s.geConfigured_passes.2 hvalid) hin

/-- Settles O44: the run goes through the channel states `g`, and output and flags are read bit by bit. -/
theorem geTxFollowsTheChannelStates : Obligations.GeTxFollowsTheChannelStates := by
  intro s b g hcap hvalid hin hstart hnext
  have hg : ∀ k, g (k + 1) = s.geTransition (g k) (drawAt s (2 * k)) := fun k => by
    rw [hnext k]
    cases g k <;> simp [State.geTransition, hit]
  have hrun := State.geRun_draws hg s.inLen.toNat
  rw [hstart] at hrun
  have hb : b.length = s.inLen.toNat := s.length_of_input hin
  refine ⟨_, _, exec_geTx_of_input hcap hvalid hin hrun, by simp [hb], by simp, fun k hk => ⟨?flag, ?bit⟩⟩
  case flag => simp [hk, State.geError_eq_decide]
  case bit => exact flipFlagged_getElem? b _ (hk.trans_eq hb.symm) (by simpa using hk)

/-! ### Determinism and split (44_gilbert_elliott.md R214) -/

/-- A transmission over `b` from the channel state and at the draws of `s`: its received bits, its flags and its final channel
state. -/
structure GeSent (s : State) (b out flags : Bits) (final : Channel) : Prop where
  run : s.geRun s.geState (s.draws (2 * b.length)) = (flags, final)
  received : out = flipFlagged b flags

/-- A transmission depends on the state only through the parameters, the channel state and the draws. -/
theorem GeSent.of_same {s s' : State} {b o f : Bits} {c : Channel} (h : GeSent s' b o f c) (hparams : SameGeParams s s')
    (hstate : s'.geState = s.geState) (hdraws : ∀ k, drawAt s' k = drawAt s k) : GeSent s b o f c := by
  obtain ⟨hpgb, hpbg, heg, heb, -⟩ := hparams
  refine ⟨?_, h.received⟩
  rw [← State.geRun_congr s s' hpgb hpbg heg heb, ← hstate, ← State.draws_congr hdraws, h.run]

section GeSent

variable {s : State} {b o f : Bits} {c : Channel} (h : GeSent s b o f c)
include h

theorem GeSent.unique {o' f' : Bits} {c' : Channel} (h' : GeSent s b o' f' c') : o = o' ∧ f = f' ∧ c = c' := by
  obtain ⟨rfl, rfl⟩ := Prod.mk.inj (h.run.symm.trans h'.run)
  exact ⟨h.received.trans h'.received.symm, rfl, rfl⟩

theorem GeSent.flags_length : f.length = b.length := by
  have hlen := s.geRun_length s.geState (s.draws (2 * b.length))
  rwa [h.run, State.draws_length, Nat.mul_div_cancel_left _ Nat.two_pos] at hlen

/-- A transmission goes on with one from the channel state and at the draws it left. -/
theorem GeSent.append {b' o' f' : Bits} {c' : Channel}
    (h' : GeSent ((s.afterDraws (2 * b.length)).setGeState c) b' o' f' c') :
    GeSent s (b ++ b') (o ++ o') (f ++ f') c' := by
  have heven : (s.draws (2 * b.length)).length % 2 = 0 := by simp
  have hrest : s.geRun c ((s.afterDraws (2 * b.length)).draws (2 * b'.length)) = (f', c') :=
    (State.geRun_congr ((s.afterDraws (2 * b.length)).setGeState c) s rfl rfl rfl rfl c _).trans h'.run
  refine ⟨?run, ?received⟩
  case run => rw [List.length_append, Nat.mul_add, State.draws_add, State.geRun_append _ _ _ _ heven, h.run, hrest]
  case received => rw [flipFlagged_append _ _ _ _ h.flags_length.symm, h.received, h'.received]

end GeSent

/-- GE_TX that ends without error has transmitted its input, and has moved the stream by two draws per bit. -/
theorem exec_geTx_succeeded {s t : State} (h : exec .geTx s = .next t) (herr : t.err = .none) :
    ∃ b, s.input = some b ∧ GeSent s b t.out t.flags t.geState ∧
      t.entropy = (s.afterDraws (2 * b.length)).entropy := by
  obtain ⟨e, he, rfl⟩ | ⟨-, b, hin, rfl⟩ := (exec_geTx_next s t).1 h
  · exact absurd herr (s.checks_error_ne_none (i := .geTx) he)
  · rw [← s.length_of_input hin]
    exact ⟨b, hin, ⟨rfl, rfl⟩, rfl⟩

/-- Settles O45: (a) a transmission is unique; (b) that over `x`, continued with that over `y`, is one over `x ++ y`. -/
theorem gilbertElliottIsDeterministicAndSplits : Obligations.GilbertElliottIsDeterministicAndSplits := by
  refine ⟨?deterministic, ?splits⟩
  case deterministic =>
    intro s s' t t' hin hparams hstate _ hdraws hexec hexec' herr herr'
    obtain ⟨b, hb, hsent, -⟩ := exec_geTx_succeeded hexec herr
    obtain ⟨b', hb', hsent', -⟩ := exec_geTx_succeeded hexec' herr'
    cases hb.symm.trans (hin.trans hb')
    exact (hsent'.of_same hparams hstate hdraws).unique hsent
  case splits =>
    intro s s₁ s₂ t t₁ t₂ x y hin hin₁ hin₂ hparams₁ hparams₂ hwidth₁ hwidth₂ hstate₁ hport₁ hexec hexec₁ hstate₂ hport₂
      hexec₂ herr herr₁ herr₂
    obtain ⟨b, hb, hsent, hport⟩ := exec_geTx_succeeded hexec herr
    obtain ⟨b₁, hb₁, hsent₁, hleft₁⟩ := exec_geTx_succeeded hexec₁ herr₁
    obtain ⟨b₂, hb₂, hsent₂, hleft₂⟩ := exec_geTx_succeeded hexec₂ herr₂
    cases hin.symm.trans hb
    cases hin₁.symm.trans hb₁
    cases hin₂.symm.trans hb₂
    have hstart₂ : s₂.entropy = (s.afterDraws (2 * x.length)).entropy := by
      rw [hport₂, hleft₁, State.afterDraws_entropy_congr hport₁]
    have first : GeSent s x t₁.out t₁.flags t₁.geState :=
      hsent₁.of_same hparams₁ hstate₁ (drawAt_congr hport₁ hwidth₁)
    have second : GeSent ((s.afterDraws (2 * x.length)).setGeState t₁.geState) y t₂.out t₂.flags t₂.geState :=
      hsent₂.of_same hparams₂ hstate₂ (drawAt_congr hstart₂ hwidth₂)
    obtain ⟨hout, hflags, hfinal⟩ := hsent.unique (first.append second)
    refine ⟨hout, hflags, hfinal, ?_⟩
    rw [hport, hleft₂, List.length_append, Nat.mul_add, State.afterDraws_entropy_add,
      State.afterDraws_entropy_congr hstart₂]

end Sys2Proof.Machine

/-! PROOFS. Exceptions (spec 60_exceptions.md): a pending word that finds its input written completes, and only transmits that
succeed take draws. -/

namespace Sys2Proof.Machine

/-! ### Completion without a model fault (60_exceptions.md R240, R241) -/

/-- On the core's turn a step completes the pending word, in the state less that turn. -/
theorem step_of_pending {s : State} {w : Word} (hturn : s.nextTurn = .core) (hp : s.pending = some w) :
    step s = completeWord w s.afterTurn := by
  rw [step, agentStep, hturn, turnStep, coreStep_of_pending (s := s.afterTurn) hp]

/-- A command ends unless it reads an input that is missing. -/
theorem exec_next_of_input {i : Instr} {s : State} (hin : ReadsInput i → s.input ≠ none) : ∃ t, exec i s = .next t := by
  cases h : exec i s with
  | next t => exact ⟨t, rfl⟩
  | fault f =>
    obtain ⟨-, hreads, -, hnone⟩ := exec_fault h
    exact absurd hnone (hin hreads)
  | refused r => exact absurd h (exec_ne_refused i s r)

/-- Settles O24: an illegal word ends with its error, and a command whose input is written ends. -/
theorem writtenInputNeverFaults : Obligations.WrittenInputNeverFaults := by
  intro s w hsched hp hwritten
  have hturn : s.nextTurn = .core := s.nextTurn_core_iff.2 (hsched.symm.imp_right fun hnil => ⟨hnil, by simp [hp]⟩)
  rw [SafeStep, step_of_pending hturn hp, completeWord]
  cases hd : decode w with
  | error e => exact ⟨_, rfl⟩
  | ok i =>
    refine exec_next_of_input fun hreads hnone => ?_
    obtain ⟨hpos, k, hk, hword⟩ := s.afterTurn.input_eq_none_iff.1 hnone
    exact hwritten i hd hreads hpos k hk hword

/-! ### Who takes draws (60_exceptions.md R246) -/

/-- A step that completes a command runs it, in the state less the core's turn. -/
theorem Completes.exec_of_step {s t : State} {i : Instr} (hi : Completes s i) (h : step s = .next t) :
    exec i s.afterTurn = .next t := by
  rwa [← step_of_decode hi.nextTurn_eq hi.1 (decode_encode i)]

/-- BSC_TX that ends without error has moved the stream by one draw per bit. -/
theorem exec_bscTx_entropy {s t : State} (h : exec .bscTx s = .next t) (herr : t.err = .none) :
    t.entropy = (s.afterDraws s.len).entropy := by
  obtain ⟨e, he, rfl⟩ | ⟨-, b, -, rfl⟩ := (exec_bscTx_next s t).1 h
  · exact absurd herr (s.checks_error_ne_none (i := .bscTx) he)
  · rfl

/-- GE_TX that ends without error has moved the stream by two draws per bit. -/
theorem exec_geTx_entropy {s t : State} (h : exec .geTx s = .next t) (herr : t.err = .none) :
    t.entropy = (s.afterDraws (2 * s.len)).entropy := by
  obtain ⟨b, hin, -, hport⟩ := exec_geTx_succeeded h herr
  rw [hport, s.length_of_input hin]

/-- A step that completes no transmit, or leaves an error, takes no draw. -/
theorem step_keeps_entropy {s t : State} (h : step s = .next t)
    (hno : ¬ Completes s .bscTx ∧ ¬ Completes s .geTx ∨ t.err ≠ .none) : t.entropy = s.entropy := by
  obtain ⟨hturn, hcore⟩ | ⟨-, hhost⟩ | ⟨-, rfl⟩ := step_next_cases h
  · obtain ⟨-, rfl⟩ | ⟨w, e, -, -, rfl⟩ | ⟨w, i, hp, hd, hx⟩ := coreStep_next_cases hcore
    · rfl
    · rfl
    · have hi : Completes s i := completes_of_decode hturn hp hd
      refine (exec_keeps_entropy hx (hno.imp_left fun ⟨hbsc, hge⟩ hmem => ?_)).trans s.afterTurn_entropy
      obtain rfl | rfl : i = .bscTx ∨ i = .geTx := by simpa using hmem
      · exact hbsc hi
      · exact hge hi
  · obtain ⟨⟨-, -, -, -, -, hport, -⟩, -⟩ := hostStep_frame hhost
    exact hport
  · rfl

/-- Settles O46: the two transmits move the stream by their draws, and no other step moves it. -/
theorem drawsAreTakenOnlyByTransmits : Obligations.DrawsAreTakenOnlyByTransmits := by
  intro s t h
  refine ⟨fun hbsc herr => ?bscTx, fun hge herr => ?geTx, step_keeps_entropy h⟩
  case bscTx => exact (exec_bscTx_entropy (hbsc.exec_of_step h) herr).trans (s.afterTurn.afterDraws_entropy_eq _)
  case geTx => exact (exec_geTx_entropy (hge.exec_of_step h) herr).trans (s.afterTurn.afterDraws_entropy_eq _)

end Sys2Proof.Machine

/-! PROOFS. Reset and hazards (spec 70_reset_and_hazards.md): the units' registers change by their own commands or by
hardware reset, the only access allowed while BUSY is the read of STATUS, and hardware reset from any state. -/

namespace Sys2Proof.Machine

/-! ### No implicit reset (70_reset_and_hazards.md R262) -/

/-- GE_STATE, HAM_CNT and the registers and valid flags of both channels are as before. -/
def SameUnits (s t : State) : Prop :=
  t.geState = s.geState ∧ t.hamCnt = s.hamCnt ∧ SameBsc s t ∧ SameGeParams s t

/-- The host writes none of the units' registers. -/
theorem hostStep_sameUnits {s t : State} (h : hostStep s = .next t) : SameUnits s t := by
  obtain ⟨⟨-, -, hcnt, hstate, -⟩, ⟨hber, hbsc, hgb, hbg, heg, heb, hge⟩, -⟩ := hostStep_frame h
  exact ⟨hstate, hcnt, ⟨hber, hbsc⟩, hgb, hbg, heg, heb, hge⟩

/-- A step that is no hardware reset leaves the units' registers alone, unless it is the completion of a command. -/
theorem step_sameUnits_or_completes {s t : State} (h : step s = .next t) (hreset : ¬ Resets s) :
    SameUnits s t ∨ ∃ i, Completes s i ∧ exec i s.afterTurn = .next t := by
  obtain ⟨hturn, hcore⟩ | ⟨-, hhost⟩ | ⟨hturn, -⟩ := step_next_cases h
  · obtain ⟨-, rfl⟩ | ⟨w, e, -, -, rfl⟩ | ⟨w, i, hp, hd, hx⟩ := coreStep_next_cases hcore
    · exact .inl ⟨rfl, rfl, ⟨rfl, rfl⟩, rfl, rfl, rfl, rfl, rfl⟩
    · exact .inl ⟨rfl, rfl, ⟨rfl, rfl⟩, rfl, rfl, rfl, rfl, rfl⟩
    · exact .inr ⟨i, completes_of_decode hturn hp hd, hx⟩
  · exact .inl (hostStep_sameUnits (s := s.afterTurn) hhost)
  · exact absurd (s.nextTurn_reset_iff.1 hturn) hreset

/-- Settles O51: only a completion changes a unit's register, and then its command is one of that register's writers. -/
theorem noImplicitReset : Obligations.NoImplicitReset := by
  intro s t h hreset
  obtain ⟨hstate, hcnt, hbsc, hge⟩ | ⟨i, hi, hx⟩ := step_sameUnits_or_completes h hreset
  · exact ⟨absurd hstate, absurd hcnt, absurd hbsc, absurd hge⟩
  · have writer : ∀ {Same : Prop} {writers : List Instr}, (i ∉ writers → Same) → ¬ Same →
        ∃ j ∈ writers, Completes s j := fun keeps hchanged => ⟨i, not_imp_comm.1 keeps hchanged, hi⟩
    refine ⟨fun hne => ?geState, fun hne => ?hamCnt, fun hne => ?bsc, fun hne => ?geParams⟩
    case geState => simpa using writer (fun hno => exec_keeps_geState hx (.inl hno)) hne
    case hamCnt => simpa using writer (fun hno => exec_keeps_hamCnt hx (.inl hno)) hne
    case bsc => simpa using writer (fun hno => exec_keeps_bsc hx (.inl hno)) hne
    case geParams => simpa using writer (fun hno => exec_keeps_geParams hx (.inl hno)) hne

/-! ### Host accesses while BUSY (70_reset_and_hazards.md R265) -/

/-- While BUSY a read of anything but STATUS faults, whatever else is wrong with it (log entry 8). -/
theorem busRead_of_busy {s : State} {addr width : Nat} (hb : s.busy = true) (h : ¬ (addr = 0x004 ∧ width = 4)) :
    busRead addr width s = .error .hostAccessWhileBusy := by
  have hl : locate s.cfg addr width ≠ some (.reg .status) :=
    fun hl => h ((locate_reg_iff _ _ _ .status).1 hl).symm
  simp [busRead, State.blocked, hb, hl]

/-- Settles O10: STATUS is a register that can be read while BUSY, and every other read and every write faults. -/
theorem busyHostMayOnlyReadStatus : Obligations.BusyHostMayOnlyReadStatus := fun _ addr width v hb =>
  ⟨busRead_reg (r := .status) (.inr rfl) rfl, busRead_of_busy hb, busWrite_of_busy hb addr width v⟩

/-! ### Hardware reset (70_reset_and_hazards.md R260) -/

/-- On a reset turn a step resets the core, whatever was pending. -/
theorem step_of_reset_turn {s : State} (hturn : s.nextTurn = .reset) : step s = .next s.afterTurn.hardwareReset := by
  rw [step, agentStep, hturn, turnStep]

/-- Settles O53: reset keeps what lies outside the core, and a fault leaves the state of its step less the turn. -/
theorem hardwareResetAtAnyTime : Obligations.HardwareResetAtAnyTime := by
  refine ⟨fun s rest hs => ?turn, fun s f hfault => ?fault⟩
  case turn =>
    have hturn : s.nextTurn = .reset := s.nextTurn_reset_iff.2 (by rw [hs]; rfl)
    rw [step_of_reset_turn hturn, State.afterTurn_of_cons hs]
    rfl
  case fault =>
    rw [hfault]
    rfl

end Sys2Proof.Machine
